-- ==== Sys2Proof/Word.lean ====
section
/-! DEFINITION. The word types of the block: a byte (00_scope.md R11) and a sextet (R11). -/

namespace Sys2Proof

/-- A byte, and so a character: 8 bits, bit 0 the least significant (00_scope.md R11, 30_encoding.md R50). -/
abbrev Byte := BitVec 8

/-- A sextet: an unsigned 6-bit value (00_scope.md R11). -/
abbrev Sextet := BitVec 6

end Sys2Proof
end

