-- ==== Sys2Proof/Syntax.lean ====
section
/-! DEFINITION. The operations of the block: one constructor for each row of spec/opcode_table.json. -/

namespace Sys2Proof

/-- The alphabet a command selects: `a = 0` general, `a = 1` URL-safe (10_state.md R15, R26). -/
inductive Asel where
  | general
  | urlSafe
  deriving DecidableEq, Repr

/-- The position of a character within a group of four (30_encoding.md R55). -/
inductive Pos where
  | p0
  | p1
  | p2
  | p3
  deriving DecidableEq, Repr

/-- The operations (30_encoding.md R61). A bit that a row's pattern leaves open is kept as an operand,
so that no bit of an encoding is dropped. -/
inductive Instr where
  /-- `ENCODE a` (41_encoder.md R77). -/
  | encode (a : Asel)
  /-- `DECODE a` (42_decoder.md R89). -/
  | decode (a : Asel)
  /-- `B64ENCODE`, the second spelling of `ENCODE 0` (43_host_interface_and_variants.md R114). -/
  | b64encode
  /-- `B64DECODE`, the second spelling of `DECODE 0` (43_host_interface_and_variants.md R115). -/
  | b64decode
  /-- `BASE = 01`, with its ignored ASEL and OP bits (43_host_interface_and_variants.md R117). -/
  | reservedBase16 (asel : Asel) (op : BitVec 1)
  /-- `BASE = 10`, with its ignored ASEL and OP bits (43_host_interface_and_variants.md R117). -/
  | reservedBase32 (asel : Asel) (op : BitVec 1)
  /-- `BASE = 11`, with its ignored ASEL and OP bits (43_host_interface_and_variants.md R117). -/
  | reservedBase3 (asel : Asel) (op : BitVec 1)
  /-- `BUILD a`, the Table Builder's operation (40_table_build.md R70). -/
  | build (a : Asel)
  /-- `ENC.G3`: a full raw group (41_encoder.md R78). -/
  | encG3
  /-- `ENC.T1`: a one-byte tail (41_encoder.md R79). -/
  | encT1
  /-- `ENC.T2`: a two-byte tail (41_encoder.md R80). -/
  | encT2
  /-- `ENC.T0`: no tail (41_encoder.md R81). -/
  | encT0
  /-- `SUBST`: the line `Q<q> <- SUBST(s)` of a group operation (41_encoder.md R82). -/
  | subst (q : Pos) (s : Sextet)
  /-- `DEC.BADCHAR.P0`: `GCW = 1abcdefg` (42_decoder.md R97). -/
  | decBadcharP0 (rest : BitVec 7)
  /-- `DEC.BADCHAR.P1`: `GCW = 01abcdef` (42_decoder.md R97). -/
  | decBadcharP1 (rest : BitVec 6)
  /-- `DEC.BADCHAR.P2`: `GCW = 001abcde` (42_decoder.md R97). -/
  | decBadcharP2 (rest : BitVec 5)
  /-- `DEC.BADCHAR.P3`: `GCW = 0001abcd` (42_decoder.md R97). -/
  | decBadcharP3 (rest : BitVec 4)
  /-- `DEC.FULL`: `GCW = 00000000` (42_decoder.md R94). -/
  | decFull
  /-- `DEC.TAIL2`: `GCW = 00000001` (42_decoder.md R95). -/
  | decTail2
  /-- `DEC.TAIL1`: `GCW = 00000011` (42_decoder.md R96). -/
  | decTail1
  /-- `DEC.BADPAD.P2`: `GCW = 00000010` (42_decoder.md R100). -/
  | decBadpadP2
  /-- `DEC.BADPAD.P1`: `GCW = 000001ab` (42_decoder.md R99). -/
  | decBadpadP1 (rest : BitVec 2)
  /-- `DEC.BADPAD.P0`: `GCW = 00001abc` (42_decoder.md R98). -/
  | decBadpadP0 (rest : BitVec 3)
  /-- `DEC.LEN`: the length check (42_decoder.md R90). -/
  | decLen
  /-- `DEC.FETCH`: fetch a text group (42_decoder.md R91). -/
  | decFetch
  /-- `DEC.LOOKUP`: four reads of the Decode Table (42_decoder.md R92). -/
  | decLookup
  /-- `DEC.CLASSIFY`: the validator (42_decoder.md R93). -/
  | decClassify
  /-- `DEC.TERM`: the end at a padded group (42_decoder.md R101). -/
  | decTerm
  /-- `DEC.TRAIL`: `DEC.TERM` under `TRAIL_POLICY = REJECT` (42_decoder.md R102). -/
  | decTrail
  /-- `DEC.END`: the end without padding (42_decoder.md R103). -/
  | decEnd
  deriving DecidableEq, Repr

end Sys2Proof
end

