-- ==== Sys2Proof/WellFormed.lean ====
section
/-! DEFINITION. Which operations the block can ever select: the words a text group can form. -/

namespace Sys2Proof

/-- No position of a group classification word is both `Invalid` and `Padding`: "An entry is never both, so
`INVF[k]` and `PADF[k]` are never both 1 in a word the block forms" (30_encoding.md R58). -/
def gcwConsistent (g : BitVec 8) : Bool :=
  (g.extractLsb' 4 4 &&& g.extractLsb' 0 4) == 0#4

/-- An operation is well formed when its word is one the block can form. Only a decoder class with an `Invalid`
position can fail the check: every command word and every `CNT` is legal, and the other classes have no `Invalid`
flag set (30_encoding.md R58, R59). An ill-formed class still has its meaning: "the class map of rule R59 is total
over all 256 words all the same". -/
def Instr.wellFormed : Instr → Bool
  | .encode _ => true
  | .decode _ => true
  | .b64encode => true
  | .b64decode => true
  | .reservedBase16 _ _ => true
  | .reservedBase32 _ _ => true
  | .reservedBase3 _ _ => true
  | .build _ => true
  | .encG3 => true
  | .encT1 => true
  | .encT2 => true
  | .encT0 => true
  | .subst _ _ => true
  | .decBadcharP0 r => gcwConsistent (1#1 ++ r)
  | .decBadcharP1 r => gcwConsistent (1#2 ++ r)
  | .decBadcharP2 r => gcwConsistent (1#3 ++ r)
  | .decBadcharP3 r => gcwConsistent (1#4 ++ r)
  | .decFull => true
  | .decTail2 => true
  | .decTail1 => true
  | .decBadpadP2 => true
  | .decBadpadP1 _ => true
  | .decBadpadP0 _ => true
  | .decLen => true
  | .decFetch => true
  | .decLookup => true
  | .decClassify => true
  | .decTerm => true
  | .decTrail => true
  | .decEnd => true

end Sys2Proof
end

