-- ==== Sys2Proof/Decode.lean ====
section
/-! DEFINITION. The three selector formats CMD4, CNT2 and GCW8: decoders, and after them the encoder. -/

namespace Sys2Proof

/-- The formats of the operation map (30_encoding.md R60, R62, R58). They share bit patterns, so a word is read
under the format of the selector that holds it: `CMD`, `CNT` or `GCW`. -/
inductive Format where
  | cmd4
  | cnt2
  | gcw8
  deriving DecidableEq, Repr

/-- Why a number is no word of a format. -/
inductive DecodeReject where
  /-- It has a bit above the format's width. -/
  | wordTooWide
  deriving DecidableEq, Repr

/-- The alphabet of an `ASEL` bit (30_encoding.md R60). -/
def Asel.ofBit (b : BitVec 1) : Asel := if b = 0#1 then .general else .urlSafe

/-- The `ASEL` bit of an alphabet (30_encoding.md R60). -/
def Asel.bit : Asel → BitVec 1
  | .general => 0#1
  | .urlSafe => 1#1

/-- `CMD.BASE`, bits 3:2 (30_encoding.md R60). -/
def cmdBase (w : BitVec 4) : BitVec 2 := w.extractLsb' 2 2

/-- `CMD.ASEL`, bit 1 (30_encoding.md R60). -/
def cmdAsel (w : BitVec 4) : Asel := Asel.ofBit (w.extractLsb' 1 1)

/-- `CMD.OP`, bit 0: 0 ENCODE, 1 DECODE (30_encoding.md R60). -/
def cmdOp (w : BitVec 4) : BitVec 1 := w.extractLsb' 0 1

/-- A command word from its fields, `BASE` first (30_encoding.md R60). -/
def cmdWord (base : BitVec 2) (a : Asel) (op : BitVec 1) : BitVec 4 := base ++ a.bit ++ op

/-- CMD4: the command map (30_encoding.md R60, R61). A wrapper's word decodes to the operation it spells:
`0000` is `ENCODE 0` and `0001` is `DECODE 0` (43_host_interface_and_variants.md R114, R115). -/
def decodeCmd (w : BitVec 4) : Instr :=
  if cmdBase w = 0#2 then
    if cmdOp w = 0#1 then .encode (cmdAsel w) else .decode (cmdAsel w)
  else if cmdBase w = 1#2 then .reservedBase16 (cmdAsel w) (cmdOp w)
  else if cmdBase w = 2#2 then .reservedBase32 (cmdAsel w) (cmdOp w)
  else .reservedBase3 (cmdAsel w) (cmdOp w)

/-- CNT2: the encoder's group operation (30_encoding.md R62). -/
def decodeCnt (w : BitVec 2) : Instr :=
  if w = 3#2 then .encG3
  else if w = 1#2 then .encT1
  else if w = 2#2 then .encT2
  else .encT0

/-- Whether a group classification word has a row's pattern under the row's mask (spec/opcode_table.json). -/
def gcwMatches (g mask pattern : BitVec 8) : Bool := (g &&& mask) == pattern

/-- GCW8: the class map of the validator, row by row (30_encoding.md R59). The rows are disjoint and cover all 256
words; the last arm is the row `00001abc`. -/
def decodeGcw (g : BitVec 8) : Instr :=
  if gcwMatches g 0x80#8 0x80#8 then .decBadcharP0 (g.extractLsb' 0 7)
  else if gcwMatches g 0xC0#8 0x40#8 then .decBadcharP1 (g.extractLsb' 0 6)
  else if gcwMatches g 0xE0#8 0x20#8 then .decBadcharP2 (g.extractLsb' 0 5)
  else if gcwMatches g 0xF0#8 0x10#8 then .decBadcharP3 (g.extractLsb' 0 4)
  else if gcwMatches g 0xFF#8 0x00#8 then .decFull
  else if gcwMatches g 0xFF#8 0x01#8 then .decTail2
  else if gcwMatches g 0xFF#8 0x03#8 then .decTail1
  else if gcwMatches g 0xFF#8 0x02#8 then .decBadpadP2
  else if gcwMatches g 0xFC#8 0x04#8 then .decBadpadP1 (g.extractLsb' 0 2)
  else .decBadpadP0 (g.extractLsb' 0 3)

/-- The decoder: a number read as a word of a format, or a rejection by name. -/
def decodeWord (f : Format) (w : Nat) : Except DecodeReject Instr :=
  match f with
  | .cmd4 => if w < 16 then .ok (decodeCmd (BitVec.ofNat 4 w)) else .error .wordTooWide
  | .cnt2 => if w < 4 then .ok (decodeCnt (BitVec.ofNat 2 w)) else .error .wordTooWide
  | .gcw8 => if w < 256 then .ok (decodeGcw (BitVec.ofNat 8 w)) else .error .wordTooWide

/-- The format a bare table word is read under: one or two bits are `CNT2`, three or four `CMD4`; a byte is a command
word when its upper half is zero, since the command port is the block's only source of words from outside, and a
group classification word otherwise (DESIGN CHOICE, log 21). -/
def tableFormat (nbits w : Nat) : Format :=
  if nbits ≤ 2 then .cnt2
  else if nbits ≤ 4 then .cmd4
  else if w < 16 then .cmd4
  else .gcw8

/-- The instruction the decoder reads from a table word (log 21). -/
def decodeTableWord (nbits w : Nat) : Option Instr :=
  if nbits = 0 then none
  else match decodeWord (tableFormat nbits w) w with
    | .ok i => some i
    | .error _ => none

/-- The encoder: an operation's format and word, from the spec's own patterns (30_encoding.md R59, R61, R62). The
rows of format NONE have no word. -/
def encode : Instr → Option (Format × Nat)
  | .encode a => some (.cmd4, (cmdWord 0#2 a 0#1).toNat)
  | .decode a => some (.cmd4, (cmdWord 0#2 a 1#1).toNat)
  | .b64encode => some (.cmd4, (0b0000#4).toNat)
  | .b64decode => some (.cmd4, (0b0001#4).toNat)
  | .reservedBase16 a op => some (.cmd4, (cmdWord 1#2 a op).toNat)
  | .reservedBase32 a op => some (.cmd4, (cmdWord 2#2 a op).toNat)
  | .reservedBase3 a op => some (.cmd4, (cmdWord 3#2 a op).toNat)
  | .build _ => none
  | .encG3 => some (.cnt2, (0b11#2).toNat)
  | .encT1 => some (.cnt2, (0b01#2).toNat)
  | .encT2 => some (.cnt2, (0b10#2).toNat)
  | .encT0 => some (.cnt2, (0b00#2).toNat)
  | .subst _ _ => none
  | .decBadcharP0 r => some (.gcw8, (0b1#1 ++ r).toNat)
  | .decBadcharP1 r => some (.gcw8, (0b01#2 ++ r).toNat)
  | .decBadcharP2 r => some (.gcw8, (0b001#3 ++ r).toNat)
  | .decBadcharP3 r => some (.gcw8, (0b0001#4 ++ r).toNat)
  | .decFull => some (.gcw8, (0b00000000#8).toNat)
  | .decTail2 => some (.gcw8, (0b00000001#8).toNat)
  | .decTail1 => some (.gcw8, (0b00000011#8).toNat)
  | .decBadpadP2 => some (.gcw8, (0b00000010#8).toNat)
  | .decBadpadP1 r => some (.gcw8, (0b000001#6 ++ r).toNat)
  | .decBadpadP0 r => some (.gcw8, (0b00001#5 ++ r).toNat)
  | .decLen => none
  | .decFetch => none
  | .decLookup => none
  | .decClassify => none
  | .decTerm => none
  | .decTrail => none
  | .decEnd => none

/-- The operation a spelling stands for: a wrapper is `ENCODE 0` or `DECODE 0`, every other operation is itself
(43_host_interface_and_variants.md R114, R115). -/
def Instr.core : Instr → Instr
  | .b64encode => .encode .general
  | .b64decode => .decode .general
  | .encode a => .encode a
  | .decode a => .decode a
  | .reservedBase16 a op => .reservedBase16 a op
  | .reservedBase32 a op => .reservedBase32 a op
  | .reservedBase3 a op => .reservedBase3 a op
  | .build a => .build a
  | .encG3 => .encG3
  | .encT1 => .encT1
  | .encT2 => .encT2
  | .encT0 => .encT0
  | .subst q s => .subst q s
  | .decBadcharP0 r => .decBadcharP0 r
  | .decBadcharP1 r => .decBadcharP1 r
  | .decBadcharP2 r => .decBadcharP2 r
  | .decBadcharP3 r => .decBadcharP3 r
  | .decFull => .decFull
  | .decTail2 => .decTail2
  | .decTail1 => .decTail1
  | .decBadpadP2 => .decBadpadP2
  | .decBadpadP1 r => .decBadpadP1 r
  | .decBadpadP0 r => .decBadpadP0 r
  | .decLen => .decLen
  | .decFetch => .decFetch
  | .decLookup => .decLookup
  | .decClassify => .decClassify
  | .decTerm => .decTerm
  | .decTrail => .decTrail
  | .decEnd => .decEnd

end Sys2Proof
end

