-- ==== Sys2Proof/Config.lean ====
section
/-! DEFINITION. What an instantiation of the block fixes, and the free values the spec leaves open. -/

namespace Sys2Proof

/-- `TRAIL_POLICY`: what the decoder does with groups that follow a padded one (00_scope.md R7). -/
inductive TrailPolicy where
  | ignore
  | reject
  deriving DecidableEq, Repr

/-- The static parameters of the machine (00_scope.md R5 to R8): "fixed when the block is instantiated and never
changes while the block runs". `ALEN` of an alphabet is the length of its list; `LEN_W` absent means unbounded. -/
structure Params where
  /-- `ALPHA[0]`, the general alphabet (R5). -/
  alpha0 : List Byte
  /-- `ALPHA[1]`, the URL-safe alphabet (R5). -/
  alpha1 : List Byte
  /-- `PAD`, the padding character (R5). -/
  pad : Byte
  /-- `TRAIL_POLICY` (R7). -/
  trail : TrailPolicy
  /-- `LEN_W`, the width of the length and index registers; none is the unbounded reading (R8). -/
  lenW : Option Nat
  deriving DecidableEq, Repr

/-- FREE VALUE (log 8, 9): the content of `OUT` where the spec leaves it open, after a failed decode and after a reset
that cuts a command short (60_exceptions.md R133, 70_reset_and_hazards.md R153). No body: nothing can be proved of it. -/
opaque Config.freeOut : Nat → List Byte

/-- FREE VALUE (log 8): the value of `OUT_LEN` in `FAIL` (60_exceptions.md R133). No body: nothing can be proved of it. -/
opaque Config.freeOutLen : Nat → Nat

end Sys2Proof
end

