-- ==== Sys2Proof/Machine/Alphabet.lean ====
section
/-! DEFINITION. The constant tables of this block and the readings of its parameters. -/

namespace Sys2Proof.Machine

/-- `n` successive characters from a first one. -/
def charRun (first n : Nat) : List Byte := (List.range n).map fun i => BitVec.ofNat 8 (first + i)

/-- Indices 0 to 61, common to both alphabets: `A` to `Z`, `a` to `z`, `0` to `9` in US-ASCII (10_state.md R16, R17;
PRESUMED, the spec's general knowledge G1 and G3, log 2). -/
def alphaCommon : List Byte := charRun 0x41 26 ++ charRun 0x61 26 ++ charRun 0x30 10

/-- `ALPHA[0]`: `+` and `/` at 62 and 63 (10_state.md R16; PRESUMED, log 2). -/
def alphaGeneral : List Byte := alphaCommon ++ [0x2B#8, 0x2F#8]

/-- `ALPHA[1]`: `-` and `_` at 62 and 63 (10_state.md R17; PRESUMED, log 2). -/
def alphaUrlSafe : List Byte := alphaCommon ++ [0x2D#8, 0x5F#8]

/-- `PAD`, the character `=` (10_state.md R18; PRESUMED code, log 2). -/
def padChar : Byte := 0x3D#8

/-- The parameters this block takes: both alphabets of size 64, `TRAIL_POLICY = IGNORE`, `LEN_W` unbounded
(00_scope.md R5 to R8). -/
def blockParams : Params where
  alpha0 := alphaGeneral
  alpha1 := alphaUrlSafe
  pad := padChar
  trail := .ignore
  lenW := none

/-- `ALPHA[a]` of a machine (00_scope.md R5). -/
def alphaOf (p : Params) : Asel → List Byte
  | .general => p.alpha0
  | .urlSafe => p.alpha1

/-- `ALEN` of alphabet `a` (00_scope.md R6). -/
def alen (p : Params) (a : Asel) : Nat := (alphaOf p a).length

/-- Whether a length fits `LEN_W` bits, that is, is below `2^LEN_W` (00_scope.md R8; the lengths themselves are natural
numbers, DESIGN CHOICE, log 23). -/
def fitsLen (p : Params) (n : Nat) : Bool :=
  match p.lenW with
  | none => true
  | some w => decide (n < 2 ^ w)

/-- A natural number cut to a register of `LEN_W` bits (00_scope.md R8). -/
def cutLen (p : Params) (n : Nat) : Nat :=
  match p.lenW with
  | none => n
  | some w => n % 2 ^ w

end Sys2Proof.Machine
end

