-- ==== Sys2Proof/Machine/State.lean ====
section
/-! DEFINITION. The state of the block: everything 10_state.md gives it, the ports, and the agents' pending steps. -/

namespace Sys2Proof.Machine

/-- An address space: cells by index, indices strictly rising; an index that is not listed has no value
(20_memory.md R33). A `Memory Byte` is a list of `Host.Cell`. -/
abbrev Memory (α : Type) := List (Nat × α)

/-- An entry of the Decode Table, "one of three tagged states" (10_state.md R19). A value has 8 bits so that BUILD can
run for any `ALEN` up to 255 (40_table_build.md R73, log 19); the block's own tables hold values below 64 only. -/
inductive Entry where
  | value (v : Byte)
  | padding
  | invalid
  deriving DecidableEq, Repr

/-- `STATE` (10_state.md R27). -/
inductive Status where
  | idle
  | busy
  | done
  | fail
  deriving DecidableEq, Repr

/-- The decoder's three errors (60_exceptions.md R125). -/
inductive DecodeError where
  | badFormat
  | badCharacter
  | badPadding
  deriving DecidableEq, Repr

/-- Whether an accepted DECODE still owes its first stage `DEC.LEN` (DEDUCED from 42_decoder.md R89 and
43_host_interface_and_variants.md R123, which give the stage and name no register; log 11). -/
inductive Phase where
  | lengthCheck
  | groups
  deriving DecidableEq, Repr

/-- A step of an agent or a move of the host (43_host_interface_and_variants.md R123). -/
inductive Event where
  /-- The Table Builder has the next step, for `BUILD a`. -/
  | builderTurn (a : Asel)
  /-- The unit in focus has the next step. -/
  | unitTurn
  /-- The next unit comes into focus (60_exceptions.md R139; log 15). -/
  | nextUnit
  /-- The host presents a command word and its input buffer (43_host_interface_and_variants.md R119, R120). -/
  | present (cmd : BitVec 4) (buffer : List Byte)
  /-- `rst` (70_reset_and_hazards.md R142). -/
  | reset
  deriving DecidableEq, Repr

/-- What one codec unit holds (60_exceptions.md R139: each unit has "its own working registers, sequencer, `CMD`,
`IN_LEN`, `STATE`, `ERR`, `OUT_LEN` and `OUT`"). -/
structure UnitState where
  /-- `B0`: first byte of the raw group (10_state.md R23). -/
  b0 : Byte
  /-- `B1` (R23). -/
  b1 : Byte
  /-- `B2` (R23). -/
  b2 : Byte
  /-- `CNT`: how many of `B0` to `B2` hold a byte of the group (R23, 30_encoding.md R62). -/
  cnt : BitVec 2
  /-- `S0`: the most significant sextet (R23). -/
  s0 : Sextet
  /-- `S1` (R23). -/
  s1 : Sextet
  /-- `S2` (R23). -/
  s2 : Sextet
  /-- `S3` (R23). -/
  s3 : Sextet
  /-- `Q0`: the output character emitted first (R23). -/
  q0 : Byte
  /-- `Q1` (R23). -/
  q1 : Byte
  /-- `Q2` (R23). -/
  q2 : Byte
  /-- `Q3` (R23). -/
  q3 : Byte
  /-- `K0`: the character at position 0 of the text group (10_state.md R24). -/
  k0 : Byte
  /-- `K1` (R24). -/
  k1 : Byte
  /-- `K2` (R24). -/
  k2 : Byte
  /-- `K3` (R24). -/
  k3 : Byte
  /-- `E0`: the LUT entry of `K0`, in the layout of R21 (R24). -/
  e0 : Byte
  /-- `E1` (R24). -/
  e1 : Byte
  /-- `E2` (R24). -/
  e2 : Byte
  /-- `E3` (R24). -/
  e3 : Byte
  /-- `V0`: `VAL` of `E0` (R24). -/
  v0 : Sextet
  /-- `V1` (R24). -/
  v1 : Sextet
  /-- `V2` (R24). -/
  v2 : Sextet
  /-- `V3` (R24). -/
  v3 : Sextet
  /-- `GCW`, whose halves are the flags `INVF` and `PADF` (R24, R32, 30_encoding.md R58). -/
  gcw : BitVec 8
  /-- `Y0`: the output byte appended first (R24). -/
  y0 : Byte
  /-- `Y1` (R24). -/
  y1 : Byte
  /-- `Y2` (R24). -/
  y2 : Byte
  /-- `GI`: the group index (10_state.md R25). -/
  gi : Nat
  /-- `NG`: the number of full-size groups (R25). -/
  ng : Nat
  /-- `REM`: the number of leftover bytes, ENCODE only (R25). -/
  rem : BitVec 2
  /-- Whether `DEC.LEN` is still owed (log 11). -/
  phase : Phase
  /-- `CMD`, as latched at acceptance (10_state.md R26). -/
  cmd : BitVec 4
  /-- `IN_LEN`, as latched at acceptance (R26). -/
  inLen : Nat
  /-- `STATE` (10_state.md R27). -/
  state : Status
  /-- `ERR`; none is the code 0 (R27). -/
  err : Option DecodeError
  /-- `OUT_LEN` (R27). -/
  outLen : Nat
  /-- `IN` of the running or last command (10_state.md R28). -/
  inBuf : Memory Byte
  /-- `OUT` (R28). -/
  outBuf : Memory Byte
  /-- Port `cmd_valid`: the host presents a command (43_host_interface_and_variants.md R118). -/
  cmdValid : Bool
  /-- Port `cmd` (R118). -/
  portCmd : BitVec 4
  /-- Port `in_len` (R118). -/
  portInLen : Nat
  /-- The input buffer of the presented command, written before it is presented (20_memory.md R47). -/
  portIn : Memory Byte
  deriving DecidableEq, Repr

/-- The whole machine: the parameters, the tables every unit shares, the unit in focus, the other units, and what
the agents and the host will do next. -/
structure State where
  /-- The static parameters; no step changes them (00_scope.md R5 to R8; log 1). -/
  params : Params
  /-- `LUT[0]` (10_state.md R19). -/
  lut0 : Memory Entry
  /-- `LUT[1]` (R19). -/
  lut1 : Memory Entry
  /-- `LUT_VALID[0]` (10_state.md R22). -/
  lutValid0 : Bool
  /-- `LUT_VALID[1]` (R22). -/
  lutValid1 : Bool
  /-- The unit in focus: the one an operation acts on. -/
  unit : UnitState
  /-- The other units (60_exceptions.md R139; log 15). -/
  others : List UnitState
  /-- The agents' steps and the host's moves still to come (log 14). -/
  events : List Event
  /-- The model's own counter of the free values used so far (log 8). -/
  freeCtr : Nat
  deriving DecidableEq, Repr

/-- Why the machine stops with a fault. All are safe: the model stops where the spec makes no such access. -/
inductive Fault where
  /-- Raised by a read of a cell of `IN` below `IN_LEN` that the host has not written (70_reset_and_hazards.md R145).
  Safe. -/
  | inUnwritten
  /-- Raised by a lookup in a cell of the Decode Table that BUILD has not written since reset (10_state.md R31,
  20_memory.md R45). Safe. -/
  | lutUnwritten
  /-- Raised by a lookup that meets a value of more than 6 bits, which no table of 64 characters holds
  (10_state.md R21, 93_implementation_defined.md U12). Safe. -/
  | lutBadEntry
  deriving DecidableEq, Repr

/-- Why the model gives no meaning. All are safe. -/
inductive Refusal where
  /-- Raised by an arm of `exec` that has no meaning yet. Safe. -/
  | notModelled (mnemonic : String)
  /-- Raised by a command with `BASE = 01` (43_host_interface_and_variants.md R117). Safe. -/
  | reservedBase16
  /-- Raised by a command with `BASE = 10` (R117). Safe. -/
  | reservedBase32
  /-- Raised by a command with `BASE = 11` (R117). Safe. -/
  | reservedBase3
  /-- Raised by a read of `IN` at or beyond `IN_LEN`: what "the unit may not do is refused"
  (43_host_interface_and_variants.md R120, 20_memory.md R34). Safe. -/
  | inOutOfRange
  /-- Raised at acceptance of a command whose input or output length does not fit `LEN_W` (00_scope.md R8). Safe. -/
  | lengthTooWide
  /-- Raised by a decode through a table built with `ALEN != 64` (00_scope.md R6, 40_table_build.md R73). Safe. -/
  | tableSizeNot64
  /-- Raised by a substitution beyond an alphabet of fewer than 64 characters (40_table_build.md R73). Safe. -/
  | sextetBeyondAlphabet
  /-- Raised by BUILD for an alphabet whose size is not in 1 to 255 (40_table_build.md R73). Safe. -/
  | alphabetSizeOutOfRange
  deriving DecidableEq, Repr

/-- The answer of an operation that yields an `α`: a next value, a fault or a refusal. -/
abbrev Ans (α : Type) := Host.Outcome α Fault Refusal

/-- A unit right after reset: `STATE = IDLE`, `ERR = 0`, `OUT_LEN = 0` (10_state.md R31). Every other register has no
reset value in the spec and takes zero here (DESIGN CHOICE, log 4, 5, 11). -/
def UnitState.reset : UnitState where
  b0 := 0#8
  b1 := 0#8
  b2 := 0#8
  cnt := 0#2
  s0 := 0#6
  s1 := 0#6
  s2 := 0#6
  s3 := 0#6
  q0 := 0#8
  q1 := 0#8
  q2 := 0#8
  q3 := 0#8
  k0 := 0#8
  k1 := 0#8
  k2 := 0#8
  k3 := 0#8
  e0 := 0#8
  e1 := 0#8
  e2 := 0#8
  e3 := 0#8
  v0 := 0#6
  v1 := 0#6
  v2 := 0#6
  v3 := 0#6
  gcw := 0#8
  y0 := 0#8
  y1 := 0#8
  y2 := 0#8
  gi := 0
  ng := 0
  rem := 0#2
  phase := .groups
  cmd := 0#4
  inLen := 0
  state := .idle
  err := none
  outLen := 0
  inBuf := []
  outBuf := []
  cmdValid := false
  portCmd := 0#4
  portInLen := 0
  portIn := []

/-- The machine right after reset (10_state.md R31): this block's parameters, both tables without value and not
valid, one idle unit, no command presented. -/
def State.reset : State where
  params := blockParams
  lut0 := []
  lut1 := []
  lutValid0 := false
  lutValid1 := false
  unit := UnitState.reset
  others := []
  events := []
  freeCtr := 0

end Sys2Proof.Machine
end

