-- ==== Sys2Proof/Machine/Ops.lean ====
section
/-! DEFINITION. The named operations: sequencing, memory, tables, appending, acceptance, the end of a command,
raising an error, reset, and the host's move. -/

namespace Sys2Proof.Machine

/-- Do `f` with the value of `o`; a fault or a refusal of `o` is the answer. -/
def chain {α β : Type} (o : Ans α) (f : α → Ans β) : Ans β :=
  match o with
  | .next a => f a
  | .fault r => .fault r
  | .refused r => .refused r

/-- `MemRead(space:i, 1)`: the cell at an index, if it has a value (00_scope.md R13). -/
def Memory.read {α : Type} : Memory α → Nat → Option α
  | [], _ => none
  | (j, v) :: m, i => if i = j then some v else Memory.read m i

/-- `MemWrite(space:i, 1, v)`: the cell at index `i` becomes `v`; the indices stay strictly rising (00_scope.md R13). -/
def Memory.write {α : Type} : Memory α → Nat → α → Memory α
  | [], i, v => [(i, v)]
  | (j, w) :: m, i, v =>
    if i < j then (i, v) :: (j, w) :: m
    else if i = j then (i, v) :: m
    else (j, w) :: Memory.write m i v

/-- One-cell writes at successive indices from `i` on, in order. -/
def Memory.writeFrom {α : Type} (m : Memory α) : Nat → List α → Memory α
  | _, [] => m
  | i, v :: vs => Memory.writeFrom (Memory.write m i v) (i + 1) vs

/-- Every listed index is above `lo`, and they rise strictly. -/
def Memory.wfAbove {α : Type} : Memory α → Nat → Bool
  | [], _ => true
  | (j, _) :: m, lo => decide (lo < j) && Memory.wfAbove m j

/-- The canonical form: indices strictly rising. An unlisted index has no value, so no listed cell can equal it. -/
def Memory.wf {α : Type} : Memory α → Bool
  | [] => true
  | (j, _) :: m => Memory.wfAbove m j

/-- The cells of a buffer from index `i` on. -/
def Memory.ofListFrom {α : Type} : Nat → List α → Memory α
  | _, [] => []
  | i, v :: vs => (i, v) :: Memory.ofListFrom (i + 1) vs

/-- A buffer as an address space: element `i` at index `i` (00_scope.md R14, 20_memory.md R33). -/
def Memory.ofList {α : Type} (vs : List α) : Memory α := Memory.ofListFrom 0 vs

/-- The listed values in order of index. -/
def Memory.values {α : Type} (m : Memory α) : List α := m.map Prod.snd

/-- `LUT[a]` (10_state.md R19). -/
def State.lut (s : State) : Asel → Memory Entry
  | .general => s.lut0
  | .urlSafe => s.lut1

/-- `LUT_VALID[a]` (10_state.md R22). -/
def State.lutValid (s : State) : Asel → Bool
  | .general => s.lutValid0
  | .urlSafe => s.lutValid1

/-- The state with `LUT[a]` holding a table and `LUT_VALID[a]` set, the end of BUILD (40_table_build.md R70). -/
def State.withTable (s : State) (t : Memory Entry) : Asel → State
  | .general => { s with lut0 := t, lutValid0 := true }
  | .urlSafe => { s with lut1 := t, lutValid1 := true }

/-- The state with another unit in focus position. -/
def State.withUnit (s : State) (u : UnitState) : State := { s with unit := u }

/-- The state with other events to come. -/
def State.withEvents (s : State) (es : List Event) : State := { s with events := es }

/-- The alphabet the unit's latched command selects, `CMD.ASEL` (43_host_interface_and_variants.md R116). -/
def UnitState.asel (u : UnitState) : Asel := cmdAsel u.cmd

/-- `OutAppend(v)` for each `v` of a list in its order: `MemWrite(OUT:OUT_LEN, 1, v); OUT_LEN <- OUT_LEN + 1`
(00_scope.md R13, 20_memory.md R35). -/
def UnitState.outAppend (u : UnitState) (vs : List Byte) : UnitState :=
  { u with outBuf := Memory.writeFrom u.outBuf u.outLen vs, outLen := u.outLen + vs.length }

/-- `finish`: `STATE <- DONE` (00_scope.md R13, 43_host_interface_and_variants.md R121). -/
def UnitState.finish (u : UnitState) : UnitState := { u with state := .done }

/-- `raise E`, the one way an error is taken: `ERR <- code(E)`, `STATE <- FAIL`, nothing else is saved
(60_exceptions.md R131). `OUT` and `OUT_LEN` become free values, since in `FAIL` they are "any value"
(60_exceptions.md R133; log 8). There is no return operation: the next acceptance clears the error (R134). -/
def raiseError (e : DecodeError) (s : State) : State :=
  { s with
    unit := { s.unit with
      err := some e
      state := .fail
      outBuf := Memory.ofList (Config.freeOut s.freeCtr)
      outLen := cutLen s.params (Config.freeOutLen s.freeCtr) }
    freeCtr := s.freeCtr + 1 }

/-- What acceptance of any command does, in one step: `CMD` and `IN_LEN` are latched, `STATE <- BUSY`, `ERR <- 0`,
`OUT_LEN <- 0`, `GI <- 0`, `OUT` is taken as empty (43_host_interface_and_variants.md R119). The handshake takes the
command off the port (log 16). -/
def UnitState.accept (u : UnitState) (word : BitVec 4) : UnitState :=
  { u with
    cmd := word
    inLen := u.portInLen
    inBuf := u.portIn
    state := .busy
    err := none
    outLen := 0
    outBuf := []
    gi := 0
    cmdValid := false }

/-- Acceptance of an ENCODE: also `NG <- floor(IN_LEN / 3)` and `REM <- IN_LEN mod 3` (41_encoder.md R77). -/
def UnitState.acceptEncode (u : UnitState) (word : BitVec 4) : UnitState :=
  { u.accept word with
    ng := u.portInLen / 3
    rem := BitVec.ofNat 2 (u.portInLen % 3)
    phase := .groups }

/-- Acceptance of a DECODE: the length check is owed next (42_decoder.md R89). `NG` is left to `DEC.LEN` (R90) and `REM`,
which is "ENCODE only" (10_state.md R25), stays as it was, although 10_state.md R31 says of both "written at acceptance of
every command" (DESIGN CHOICE, log 29). -/
def UnitState.acceptDecode (u : UnitState) (word : BitVec 4) : UnitState :=
  { u.accept word with phase := .lengthCheck }

/-- The output length of an ENCODE of `n` bytes, `4 * ceil(n / 3)` (41_encoder.md R84). -/
def encodedLen (n : Nat) : Nat := 4 * ((n + 2) / 3)

/-- The greatest output length of a DECODE of `n` characters, `3 * n / 4` (42_decoder.md R106). -/
def decodedLenMax (n : Nat) : Nat := 3 * n / 4

/-- A presented ENCODE (43_host_interface_and_variants.md R119): held while `STATE = BUSY`, refused if a length does
not fit `LEN_W`, otherwise accepted. Held means that the step leaves the state as it is (log 13). -/
def encodeCommand (word : BitVec 4) (s : State) : Ans State :=
  if s.unit.state = .busy then .next s
  else if fitsLen s.params s.unit.portInLen && fitsLen s.params (encodedLen s.unit.portInLen) then
    .next (s.withUnit (s.unit.acceptEncode word))
  else .refused .lengthTooWide

/-- A presented DECODE under alphabet `a` (43_host_interface_and_variants.md R119): held while `STATE = BUSY` or
`LUT_VALID[a] = 0`, refused if a length does not fit `LEN_W` or `ALEN != 64` (00_scope.md R6), otherwise accepted. -/
def decodeCommand (a : Asel) (word : BitVec 4) (s : State) : Ans State :=
  if s.unit.state = .busy then .next s
  else if s.lutValid a = false then .next s
  else if alen s.params a ≠ 64 then .refused .tableSizeNot64
  else if fitsLen s.params s.unit.portInLen && fitsLen s.params (decodedLenMax s.unit.portInLen) then
    .next (s.withUnit (s.unit.acceptDecode word))
  else .refused .lengthTooWide

/-- `OUT` after reset: "the host's buffers are untouched", but what a command cut short had appended is unspecified
and so a free value (70_reset_and_hazards.md R142, R153; log 9). -/
def resetOut (u : UnitState) (free : List Byte) : Memory Byte :=
  if u.state = .busy then Memory.ofList free else u.outBuf

/-- A unit on reset: the registers of `UnitState.reset`; the host's buffers and ports stay (10_state.md R31; log 10). -/
def UnitState.onReset (u : UnitState) (free : List Byte) : UnitState :=
  { UnitState.reset with
    inBuf := u.inBuf
    outBuf := resetOut u free
    cmdValid := u.cmdValid
    portCmd := u.portCmd
    portInLen := u.portInLen
    portIn := u.portIn }

/-- The other units on reset, each with a free value of its own. -/
def resetOthers : Nat → List UnitState → List UnitState
  | _, [] => []
  | n, u :: us => u.onReset (Config.freeOut n) :: resetOthers (n + 1) us

/-- `rst`, in one step (70_reset_and_hazards.md R142): both tables lose their content and are not valid, every unit is
idle; the parameters are untouched. -/
def applyReset (s : State) : State :=
  { s with
    lut0 := []
    lut1 := []
    lutValid0 := false
    lutValid1 := false
    unit := s.unit.onReset (Config.freeOut s.freeCtr)
    others := resetOthers (s.freeCtr + 1) s.others
    freeCtr := s.freeCtr + 1 + s.others.length }

/-- The host presents a command with its buffer: `cmd_valid`, `cmd`, `in_len` and the bytes of `IN`, all written
before the command is seen (43_host_interface_and_variants.md R118, 20_memory.md R47). -/
def UnitState.present (u : UnitState) (word : BitVec 4) (buffer : List Byte) : UnitState :=
  { u with
    cmdValid := true
    portCmd := word
    portInLen := buffer.length
    portIn := Memory.ofList buffer }

/-- The next unit comes into focus, the present one goes to the end of the list (log 15). -/
def State.rotate (s : State) : State :=
  match s.others with
  | [] => s
  | v :: vs => { s with unit := v, others := vs ++ [s.unit] }

end Sys2Proof.Machine
end

