-- ==== Sys2Proof/Machine/Build.lean ====
section
/-! DEFINITION. BUILD: construction of the Decode Table. -/

namespace Sys2Proof.Machine

/-- The first phase: all 256 entries `Invalid` (40_table_build.md R70). -/
def invalidTable : Memory Entry := Memory.ofList (List.replicate 256 Entry.invalid)

/-- The third phase: the entry of the character at index `i` becomes `Value(i)`, `i` ascending, a later write replacing
an earlier one (40_table_build.md R70, R71). -/
def writeAlphabet : Nat → List Byte → Memory Entry → Memory Entry
  | _, [], t => t
  | i, c :: cs, t => writeAlphabet (i + 1) cs (Memory.write t c.toNat (.value (BitVec.ofNat 8 i)))

/-- The three phases of BUILD in their order (40_table_build.md R70). -/
def buildTable (alphabet : List Byte) (pad : Byte) : Memory Entry :=
  writeAlphabet 0 alphabet (Memory.write invalidTable pad.toNat .padding)

/-- `BUILD a`: `LUT[a]` is built from `ALPHA[a]` and `PAD`, then `LUT_VALID[a] <- 1` (40_table_build.md R70). It never
fails (R72); alphabets of 1 to 255 characters have a meaning (R73), others are refused (log 19). -/
def execBuild (a : Asel) (s : State) : Ans State :=
  if 1 ≤ alen s.params a ∧ alen s.params a ≤ 255 then
    .next (s.withTable (buildTable (alphaOf s.params a) s.params.pad) a)
  else .refused .alphabetSizeOutOfRange

end Sys2Proof.Machine
end

