-- ==== Sys2Proof/Machine/Command.lean ====
section
/-! DEFINITION. The host operations: ENCODE, DECODE, the two wrappers, and the reserved commands. -/

namespace Sys2Proof.Machine

/-- `ENCODE a`: its acceptance (41_encoder.md R77, 43_host_interface_and_variants.md R119); the group operations follow
as steps of their own (R123). -/
def execEncode (a : Asel) (s : State) : Ans State := encodeCommand (cmdWord 0#2 a 0#1) s

/-- `DECODE a`: its acceptance (42_decoder.md R89, 43_host_interface_and_variants.md R119); `DEC.LEN` and the text groups
follow as steps of their own (R123). -/
def execDecode (a : Asel) (s : State) : Ans State := decodeCommand a (cmdWord 0#2 a 1#1) s

/-- `B64ENCODE`: `ENCODE 0, IN`. "Nothing else." (43_host_interface_and_variants.md R114). -/
def execB64encode (s : State) : Ans State := encodeCommand 0b0000#4 s

/-- `B64DECODE`: `DECODE 0, IN`. "Nothing else." (43_host_interface_and_variants.md R115). -/
def execB64decode (s : State) : Ans State := decodeCommand .general 0b0001#4 s

/-- `BASE = 01`: "a model must `refuse` it" (43_host_interface_and_variants.md R117). -/
def execReservedBase16 (_s : State) : Ans State := .refused .reservedBase16

/-- `BASE = 10`: "a model must `refuse` it" (43_host_interface_and_variants.md R117). -/
def execReservedBase32 (_s : State) : Ans State := .refused .reservedBase32

/-- `BASE = 11`: "a model must `refuse` it" (43_host_interface_and_variants.md R117). -/
def execReservedBase3 (_s : State) : Ans State := .refused .reservedBase3

end Sys2Proof.Machine
end

