-- ==== Sys2Proof/Machine/Flags.lean ====
section
/-! DEFINITION. The flags: the layout of a table entry, the group classification word, and the validator's classes. -/

namespace Sys2Proof.Machine

/-- The 8-bit layout of an entry: `INV` in bit 7, `PADF` in bit 6, `VAL` in bits 5:0 (10_state.md R21). A value that
does not fit 6 bits has no layout (40_table_build.md R73). -/
def Entry.layout : Entry → Option Byte
  | .value v => if v < 64#8 then some v else none
  | .padding => some 0x40#8
  | .invalid => some 0x80#8

/-- `INV`, bit 7 of an entry (10_state.md R21). -/
def entryInv (e : Byte) : BitVec 1 := e.extractLsb' 7 1

/-- `PADF`, bit 6 of an entry (10_state.md R21). -/
def entryPadf (e : Byte) : BitVec 1 := e.extractLsb' 6 1

/-- `VAL`, bits 5:0 of an entry (10_state.md R21). -/
def entryVal (e : Byte) : Sextet := e.extractLsb' 0 6

/-- `GCW <- E0.INV ++ E1.INV ++ E2.INV ++ E3.INV ++ E0.PADF ++ E1.PADF ++ E2.PADF ++ E3.PADF` (30_encoding.md R58). -/
def gcwOf (e0 e1 e2 e3 : Byte) : BitVec 8 :=
  entryInv e0 ++ entryInv e1 ++ entryInv e2 ++ entryInv e3 ++
    entryPadf e0 ++ entryPadf e1 ++ entryPadf e2 ++ entryPadf e3

/-- `INVF[0..3]`, the upper half of `GCW` (10_state.md R32). -/
def UnitState.invf (u : UnitState) : BitVec 4 := u.gcw.extractLsb' 4 4

/-- `PADF[0..3]`, the lower half of `GCW` (10_state.md R32). -/
def UnitState.padf (u : UnitState) : BitVec 4 := u.gcw.extractLsb' 0 4

/-- The validator's five outcomes (42_decoder.md R93). -/
inductive GroupClass where
  | badChar
  | full
  | tail2
  | tail1
  | badPad
  deriving DecidableEq, Repr

/-- The validator "as a function on the four tags, with no bit layout" (42_decoder.md R93). -/
def classify (e0 e1 e2 e3 : Entry) : GroupClass :=
  if e0 = .invalid ∨ e1 = .invalid ∨ e2 = .invalid ∨ e3 = .invalid then .badChar
  else if e0 ≠ .padding ∧ e1 ≠ .padding ∧ e2 ≠ .padding ∧ e3 ≠ .padding then .full
  else if e0 ≠ .padding ∧ e1 ≠ .padding ∧ e2 ≠ .padding ∧ e3 = .padding then .tail2
  else if e0 ≠ .padding ∧ e1 ≠ .padding ∧ e2 = .padding ∧ e3 = .padding then .tail1
  else .badPad

/-- The outcome a class operation stands for; none for an operation that is no class (30_encoding.md R59). -/
def instrClass : Instr → Option GroupClass
  | .decBadcharP0 _ => some .badChar
  | .decBadcharP1 _ => some .badChar
  | .decBadcharP2 _ => some .badChar
  | .decBadcharP3 _ => some .badChar
  | .decFull => some .full
  | .decTail2 => some .tail2
  | .decTail1 => some .tail1
  | .decBadpadP2 => some .badPad
  | .decBadpadP1 _ => some .badPad
  | .decBadpadP0 _ => some .badPad
  | .encode _ => none
  | .decode _ => none
  | .b64encode => none
  | .b64decode => none
  | .reservedBase16 _ _ => none
  | .reservedBase32 _ _ => none
  | .reservedBase3 _ _ => none
  | .build _ => none
  | .encG3 => none
  | .encT1 => none
  | .encT2 => none
  | .encT0 => none
  | .subst _ _ => none
  | .decLen => none
  | .decFetch => none
  | .decLookup => none
  | .decClassify => none
  | .decTerm => none
  | .decTrail => none
  | .decEnd => none

end Sys2Proof.Machine
end

