-- ==== Sys2Proof/Machine/Operands.lean ====
section
/-! DEFINITION. The operand forms: sextets of bytes, bytes of sextets, and the three kinds of read. -/

namespace Sys2Proof.Machine

/-- `S0 <- B0[7:2]` (30_encoding.md R52, R53, R54). -/
def sextet0 (b0 : Byte) : Sextet := b0.extractLsb' 2 6

/-- `S1 <- B0[1:0] ++ B1[7:4]` (30_encoding.md R52, R54). -/
def sextet1 (b0 b1 : Byte) : Sextet := b0.extractLsb' 0 2 ++ b1.extractLsb' 4 4

/-- `S1 <- B0[1:0] ++ 0b0000`, in a one-byte tail (30_encoding.md R53). -/
def sextet1Tail (b0 : Byte) : Sextet := b0.extractLsb' 0 2 ++ 0#4

/-- `S2 <- B1[3:0] ++ B2[7:6]` (30_encoding.md R52). -/
def sextet2 (b1 b2 : Byte) : Sextet := b1.extractLsb' 0 4 ++ b2.extractLsb' 6 2

/-- `S2 <- B1[3:0] ++ 0b00`, in a two-byte tail (30_encoding.md R54). -/
def sextet2Tail (b1 : Byte) : Sextet := b1.extractLsb' 0 4 ++ 0#2

/-- `S3 <- B2[5:0]` (30_encoding.md R52). -/
def sextet3 (b2 : Byte) : Sextet := b2.extractLsb' 0 6

/-- `Y0 <- V0[5:0] ++ V1[5:4]` (30_encoding.md R56). -/
def outByte0 (v0 v1 : Sextet) : Byte := v0 ++ v1.extractLsb' 4 2

/-- `Y1 <- V1[3:0] ++ V2[5:2]` (30_encoding.md R56). -/
def outByte1 (v1 v2 : Sextet) : Byte := v1.extractLsb' 0 4 ++ v2.extractLsb' 2 4

/-- `Y2 <- V2[1:0] ++ V3[5:0]` (30_encoding.md R56). -/
def outByte2 (v2 v3 : Sextet) : Byte := v2.extractLsb' 0 2 ++ v3

/-- `MemRead(IN:i, 1)`: only indices below `IN_LEN` exist (20_memory.md R33, R34); "reading beyond `IN_LEN`" is refused
(43_host_interface_and_variants.md R120). A cell below `IN_LEN` that the host has not written faults (DESIGN CHOICE,
log 7). -/
def readIn (u : UnitState) (i : Nat) : Ans Byte :=
  if i < u.inLen then
    match Memory.read u.inBuf i with
    | some b => .next b
    | none => .fault .inUnwritten
  else .refused .inOutOfRange

/-- `SUBST(s) = MemRead(ALPHA[ASEL]:s, 1)` (41_encoder.md R82); a sextet beyond a short alphabet is refused
(40_table_build.md R73). -/
def substChar (s : State) (x : Sextet) : Ans Byte :=
  match (alphaOf s.params s.unit.asel)[x.toNat]? with
  | some c => .next c
  | none => .refused .sextetBeyondAlphabet

/-- `MemRead(LUT[ASEL]:c, 1)`, in the layout of 10_state.md R21: the index is the whole byte (30_encoding.md R57).
Reading through a table of another size than 64 is refused (00_scope.md R6); reading a cell BUILD has not written is a
fault (10_state.md R31; log 6), and so is a value of more than 6 bits (DEDUCED, log 20). -/
def readLut (s : State) (c : Byte) : Ans Byte :=
  if alen s.params s.unit.asel ≠ 64 then .refused .tableSizeNot64
  else match Memory.read (s.lut s.unit.asel) c.toNat with
    | none => .fault .lutUnwritten
    | some e => match Entry.layout e with
      | some b => .next b
      | none => .fault .lutBadEntry

end Sys2Proof.Machine
end

