-- ==== Sys2Proof/Machine/Decoder.lean ====
section
/-! DEFINITION. The decoder's stages and group classes. -/

namespace Sys2Proof.Machine

/-- `DEC.LEN`: `BadFormat` when `IN_LEN mod 4 != 0`, otherwise `NG <- IN_LEN / 4` (42_decoder.md R90). -/
def execDecLen (s : State) : Ans State :=
  if s.unit.inLen % 4 ≠ 0 then .next (raiseError .badFormat s)
  else .next (s.withUnit { s.unit with ng := s.unit.inLen / 4, phase := .groups })

/-- `DEC.FETCH`: `Kk <- MemRead(IN:4*GI+k, 1)` (42_decoder.md R91). -/
def execDecFetch (s : State) : Ans State :=
  chain (readIn s.unit (4 * s.unit.gi)) fun c0 =>
  chain (readIn s.unit (4 * s.unit.gi + 1)) fun c1 =>
  chain (readIn s.unit (4 * s.unit.gi + 2)) fun c2 =>
  chain (readIn s.unit (4 * s.unit.gi + 3)) fun c3 =>
  .next (s.withUnit { s.unit with k0 := c0, k1 := c1, k2 := c2, k3 := c3 })

/-- The four entries of a group and their values (10_state.md R24). -/
def UnitState.withEntries (u : UnitState) (e0 e1 e2 e3 : Byte) : UnitState :=
  { u with e0 := e0, e1 := e1, e2 := e2, e3 := e3,
           v0 := entryVal e0, v1 := entryVal e1, v2 := entryVal e2, v3 := entryVal e3 }

/-- `DEC.LOOKUP`: `Ek <- LUT[a][Kk]; Vk <- Ek[5:0]` (42_decoder.md R92). -/
def execDecLookup (s : State) : Ans State :=
  chain (readLut s s.unit.k0) fun e0 =>
  chain (readLut s s.unit.k1) fun e1 =>
  chain (readLut s s.unit.k2) fun e2 =>
  chain (readLut s s.unit.k3) fun e3 =>
  .next (s.withUnit (s.unit.withEntries e0 e1 e2 e3))

/-- `DEC.CLASSIFY`: `GCW` is formed from the four entries (42_decoder.md R93). -/
def execDecClassify (s : State) : Ans State :=
  .next (s.withUnit { s.unit with gcw := gcwOf s.unit.e0 s.unit.e1 s.unit.e2 s.unit.e3 })

/-- `DEC.TERM` under `REJECT`: `BadPadding` when groups remain after the padded one, `GI < NG - 1`, otherwise
`STATE <- DONE` (42_decoder.md R102; log 25). -/
def trailCheck (s : State) : State :=
  if s.unit.gi + 1 < s.unit.ng then raiseError .badPadding s else s.withUnit s.unit.finish

/-- The end at a padded group under either policy (42_decoder.md R101, R102). -/
def terminate (s : State) : State :=
  match s.params.trail with
  | .ignore => s.withUnit s.unit.finish
  | .reject => trailCheck s

/-- `DEC.TERM` (42_decoder.md R101, R102). -/
def execDecTerm (s : State) : Ans State := .next (terminate s)

/-- `DEC.TRAIL`: the check of `TRAIL_POLICY = REJECT` (42_decoder.md R102; log 18). -/
def execDecTrail (s : State) : Ans State := .next (trailCheck s)

/-- `DEC.END`: `STATE <- DONE` (42_decoder.md R103). -/
def execDecEnd (s : State) : Ans State := .next (s.withUnit s.unit.finish)

/-- `DEC.FULL`: three bytes are formed and appended, `GI <- GI + 1` (42_decoder.md R94). -/
def UnitState.decFull (u : UnitState) : UnitState :=
  { u with
    y0 := outByte0 u.v0 u.v1
    y1 := outByte1 u.v1 u.v2
    y2 := outByte2 u.v2 u.v3
    gi := u.gi + 1 }.outAppend [outByte0 u.v0 u.v1, outByte1 u.v1 u.v2, outByte2 u.v2 u.v3]

/-- The bytes of `DEC.TAIL2`: "`V3` and `Y2` are not used" (42_decoder.md R95). -/
def UnitState.decTail2 (u : UnitState) : UnitState :=
  { u with
    y0 := outByte0 u.v0 u.v1
    y1 := outByte1 u.v1 u.v2 }.outAppend [outByte0 u.v0 u.v1, outByte1 u.v1 u.v2]

/-- The byte of `DEC.TAIL1`: "`V2`, `V3`, `Y1`, `Y2` are not used" (42_decoder.md R96). -/
def UnitState.decTail1 (u : UnitState) : UnitState :=
  { u with y0 := outByte0 u.v0 u.v1 }.outAppend [outByte0 u.v0 u.v1]

/-- `DEC.FULL` (42_decoder.md R94). -/
def execDecFull (s : State) : Ans State := .next (s.withUnit s.unit.decFull)

/-- `DEC.TAIL2`: two bytes are appended, then `DEC.TERM` (42_decoder.md R95). -/
def execDecTail2 (s : State) : Ans State := .next (terminate (s.withUnit s.unit.decTail2))

/-- `DEC.TAIL1`: one byte is appended, then `DEC.TERM` (42_decoder.md R96). -/
def execDecTail1 (s : State) : Ans State := .next (terminate (s.withUnit s.unit.decTail1))

/-- `DEC.BADCHAR.P0`: `raise BadCharacter` (42_decoder.md R97). -/
def execDecBadcharP0 (s : State) : Ans State := .next (raiseError .badCharacter s)

/-- `DEC.BADCHAR.P1`: `raise BadCharacter` (42_decoder.md R97). -/
def execDecBadcharP1 (s : State) : Ans State := .next (raiseError .badCharacter s)

/-- `DEC.BADCHAR.P2`: `raise BadCharacter` (42_decoder.md R97). -/
def execDecBadcharP2 (s : State) : Ans State := .next (raiseError .badCharacter s)

/-- `DEC.BADCHAR.P3`: `raise BadCharacter` (42_decoder.md R97). -/
def execDecBadcharP3 (s : State) : Ans State := .next (raiseError .badCharacter s)

/-- `DEC.BADPAD.P2`: `raise BadPadding` (42_decoder.md R100). -/
def execDecBadpadP2 (s : State) : Ans State := .next (raiseError .badPadding s)

/-- `DEC.BADPAD.P1`: `raise BadPadding` (42_decoder.md R99). -/
def execDecBadpadP1 (s : State) : Ans State := .next (raiseError .badPadding s)

/-- `DEC.BADPAD.P0`: `raise BadPadding` (42_decoder.md R98). -/
def execDecBadpadP0 (s : State) : Ans State := .next (raiseError .badPadding s)

end Sys2Proof.Machine
end

