-- ==== Sys2Proof/Machine/Encoder.lean ====
section
/-! DEFINITION. The encoder's group operations, each in the four stages fetch, split, substitute, emit
(41_encoder.md R83). -/

namespace Sys2Proof.Machine

/-- The four output characters of a group (10_state.md R23). -/
def UnitState.withQ (u : UnitState) (q0 q1 q2 q3 : Byte) : UnitState :=
  { u with q0 := q0, q1 := q1, q2 := q2, q3 := q3 }

/-- Stage 4, emit: four appends in the order `Q0`, `Q1`, `Q2`, `Q3` (41_encoder.md R83). -/
def UnitState.emit (u : UnitState) : UnitState :=
  u.outAppend [u.q0, u.q1, u.q2, u.q3]

/-- Stages 1 and 2 of a full group: the bytes and their four sextets (41_encoder.md R78). -/
def UnitState.withRaw3 (u : UnitState) (b0 b1 b2 : Byte) : UnitState :=
  { u with b0 := b0, b1 := b1, b2 := b2,
           s0 := sextet0 b0, s1 := sextet1 b0 b1, s2 := sextet2 b1 b2, s3 := sextet3 b2 }

/-- Stages 1 and 2 of a two-byte tail: "`B2` and `S3` are not written" (41_encoder.md R80). -/
def UnitState.withRaw2 (u : UnitState) (b0 b1 : Byte) : UnitState :=
  { u with b0 := b0, b1 := b1, s0 := sextet0 b0, s1 := sextet1 b0 b1, s2 := sextet2Tail b1 }

/-- Stages 1 and 2 of a one-byte tail: "`B1`, `B2`, `S2`, `S3` are not written" (41_encoder.md R79). -/
def UnitState.withRaw1 (u : UnitState) (b0 : Byte) : UnitState :=
  { u with b0 := b0, s0 := sextet0 b0, s1 := sextet1Tail b0 }

/-- `ENC.G3`: one full raw group, `IN[3*GI]` to `IN[3*GI+2]` (41_encoder.md R78). -/
def execEncG3 (s : State) : Ans State :=
  chain (readIn s.unit (3 * s.unit.gi)) fun b0 =>
  chain (readIn s.unit (3 * s.unit.gi + 1)) fun b1 =>
  chain (readIn s.unit (3 * s.unit.gi + 2)) fun b2 =>
  chain (substChar s (sextet0 b0)) fun q0 =>
  chain (substChar s (sextet1 b0 b1)) fun q1 =>
  chain (substChar s (sextet2 b1 b2)) fun q2 =>
  chain (substChar s (sextet3 b2)) fun q3 =>
  .next (s.withUnit ((s.unit.withRaw3 b0 b1 b2).withQ q0 q1 q2 q3).emit)

/-- `ENC.T1`: a one-byte tail, `IN[3*NG]`, followed by two padding characters (41_encoder.md R79). -/
def execEncT1 (s : State) : Ans State :=
  chain (readIn s.unit (3 * s.unit.ng)) fun b0 =>
  chain (substChar s (sextet0 b0)) fun q0 =>
  chain (substChar s (sextet1Tail b0)) fun q1 =>
  .next (s.withUnit ((s.unit.withRaw1 b0).withQ q0 q1 s.params.pad s.params.pad).emit)

/-- `ENC.T2`: a two-byte tail, `IN[3*NG]` and `IN[3*NG+1]`, followed by one padding character (41_encoder.md R80). -/
def execEncT2 (s : State) : Ans State :=
  chain (readIn s.unit (3 * s.unit.ng)) fun b0 =>
  chain (readIn s.unit (3 * s.unit.ng + 1)) fun b1 =>
  chain (substChar s (sextet0 b0)) fun q0 =>
  chain (substChar s (sextet1 b0 b1)) fun q1 =>
  chain (substChar s (sextet2Tail b1)) fun q2 =>
  .next (s.withUnit ((s.unit.withRaw2 b0 b1).withQ q0 q1 q2 s.params.pad).emit)

/-- `ENC.T0`: "nothing is read, nothing is written, nothing is appended" (41_encoder.md R81). -/
def execEncT0 (s : State) : Ans State := .next s

/-- `Q<q>` takes a character. -/
def UnitState.withQAt (u : UnitState) (q : Pos) (c : Byte) : UnitState :=
  match q with
  | .p0 => { u with q0 := c }
  | .p1 => { u with q1 := c }
  | .p2 => { u with q2 := c }
  | .p3 => { u with q3 := c }

/-- `SUBST`: the line `Q<q> <- SUBST(x)` (41_encoder.md R82; the destination is DEDUCED from R78, log 18). -/
def execSubst (q : Pos) (x : Sextet) (s : State) : Ans State :=
  chain (substChar s x) fun c => .next (s.withUnit (s.unit.withQAt q c))

end Sys2Proof.Machine
end

