-- ==== Sys2Proof/Machine/Dispatch.lean ====
section
/-! DEFINITION. The dispatch: one arm for each operation of spec/opcode_table.json. -/

namespace Sys2Proof.Machine

def exec (i : Instr) (s : State) : Host.Outcome State Fault Refusal :=
  match i with
  | .encode a => Sys2Proof.Machine.execEncode a s
  | .decode a => Sys2Proof.Machine.execDecode a s
  | .b64encode => Sys2Proof.Machine.execB64encode s
  | .b64decode => Sys2Proof.Machine.execB64decode s
  | .reservedBase16 _ _ => Sys2Proof.Machine.execReservedBase16 s
  | .reservedBase32 _ _ => Sys2Proof.Machine.execReservedBase32 s
  | .reservedBase3 _ _ => Sys2Proof.Machine.execReservedBase3 s
  | .build a => Sys2Proof.Machine.execBuild a s
  | .encG3 => Sys2Proof.Machine.execEncG3 s
  | .encT1 => Sys2Proof.Machine.execEncT1 s
  | .encT2 => Sys2Proof.Machine.execEncT2 s
  | .encT0 => Sys2Proof.Machine.execEncT0 s
  | .subst q x => Sys2Proof.Machine.execSubst q x s
  | .decBadcharP0 _ => Sys2Proof.Machine.execDecBadcharP0 s
  | .decBadcharP1 _ => Sys2Proof.Machine.execDecBadcharP1 s
  | .decBadcharP2 _ => Sys2Proof.Machine.execDecBadcharP2 s
  | .decBadcharP3 _ => Sys2Proof.Machine.execDecBadcharP3 s
  | .decFull => Sys2Proof.Machine.execDecFull s
  | .decTail2 => Sys2Proof.Machine.execDecTail2 s
  | .decTail1 => Sys2Proof.Machine.execDecTail1 s
  | .decBadpadP2 => Sys2Proof.Machine.execDecBadpadP2 s
  | .decBadpadP1 _ => Sys2Proof.Machine.execDecBadpadP1 s
  | .decBadpadP0 _ => Sys2Proof.Machine.execDecBadpadP0 s
  | .decLen => Sys2Proof.Machine.execDecLen s
  | .decFetch => Sys2Proof.Machine.execDecFetch s
  | .decLookup => Sys2Proof.Machine.execDecLookup s
  | .decClassify => Sys2Proof.Machine.execDecClassify s
  | .decTerm => Sys2Proof.Machine.execDecTerm s
  | .decTrail => Sys2Proof.Machine.execDecTrail s
  | .decEnd => Sys2Proof.Machine.execDecEnd s

end Sys2Proof.Machine
end

