-- ==== Sys2Proof/Machine/HostPort.lean ====
section
/-! DEFINITION. What the host sees: the output ports, the numeric codes of the status registers, and the result. The
single-access ports and their timing are left out (DESIGN CHOICE, log 24). -/

namespace Sys2Proof.Machine

/-- The 2-bit code of `STATE` (10_state.md R27). -/
def Status.code : Status → BitVec 2
  | .idle => 0#2
  | .busy => 1#2
  | .done => 2#2
  | .fail => 3#2

/-- The 2-bit code of `ERR` (10_state.md R27, 60_exceptions.md R125). -/
def errCode : Option DecodeError → BitVec 2
  | none => 0#2
  | some .badFormat => 1#2
  | some .badCharacter => 2#2
  | some .badPadding => 3#2

/-- Whether the command on a unit's port waits for BUILD: a DECODE whose table is not valid
(43_host_interface_and_variants.md R119). -/
def heldForTable (s : State) (u : UnitState) : Bool :=
  cmdBase u.portCmd == 0#2 && cmdOp u.portCmd == 1#1 && !(s.lutValid (cmdAsel u.portCmd))

/-- Whether the lengths of the command on the port fit `LEN_W`, and a DECODE's alphabet has 64 characters
(43_host_interface_and_variants.md R119, 00_scope.md R6, R8). -/
def portLengthsFit (s : State) (u : UnitState) : Bool :=
  fitsLen s.params u.portInLen &&
    (if cmdOp u.portCmd = 0#1 then fitsLen s.params (encodedLen u.portInLen)
     else fitsLen s.params (decodedLenMax u.portInLen) && alen s.params (cmdAsel u.portCmd) == 64)

/-- Port `cmd_ready`: the unit can accept the command presented (43_host_interface_and_variants.md R118, R119). While no
command is presented it is false: the rule gives it no meaning then (DESIGN CHOICE, log 28). -/
def cmdReady (s : State) (u : UnitState) : Bool :=
  u.cmdValid && decide (u.state ≠ .busy) && cmdBase u.portCmd == 0#2 && !(heldForTable s u) && portLengthsFit s u

/-- The status outputs (43_host_interface_and_variants.md R118). -/
structure HostStatus where
  cmdReady : Bool
  state : BitVec 2
  err : BitVec 2
  outLen : Nat
  lutValid : BitVec 2
  deriving DecidableEq, Repr

/-- `LUT_VALID[a]` as a bit. -/
def lutValidBit (s : State) (a : Asel) : BitVec 1 := if s.lutValid a then 1#1 else 0#1

/-- "Read status", at any time, changing nothing (43_host_interface_and_variants.md R120): `lut_valid` is
`LUT_VALID[1] ++ LUT_VALID[0]` (R118). -/
def readStatus (s : State) (u : UnitState) : HostStatus where
  cmdReady := cmdReady s u
  state := u.state.code
  err := errCode u.err
  outLen := u.outLen
  lutValid := lutValidBit s .urlSafe ++ lutValidBit s .general

/-- The cells of a buffer from index `i` on, `n` of them, if all have a value. -/
def Memory.readFrom {α : Type} (m : Memory α) : Nat → Nat → Option (List α)
  | _, 0 => some []
  | i, n + 1 =>
    match Memory.read m i, Memory.readFrom m (i + 1) n with
    | some v, some vs => some (v :: vs)
    | _, _ => none

/-- Reading the result: `OUT[0..OUT_LEN]` is the command's result only when `STATE = DONE`
(20_memory.md R49, 43_host_interface_and_variants.md R122); in any other state the host gets nothing. -/
def readResult (u : UnitState) : Option (List Byte) :=
  if u.state = .done then Memory.readFrom u.outBuf 0 u.outLen else none

end Sys2Proof.Machine
end

