-- ==== Sys2Proof/Machine/Sequencer.lean ====
section
/-! DEFINITION. The agents' steps (43_host_interface_and_variants.md R123): the unit's sequencer, the Table Builder, the
host's moves, and whose step comes next. -/

namespace Sys2Proof.Machine

/-- `CNT <- c`, before a group operation is selected (41_encoder.md R77). -/
def UnitState.withCnt (u : UnitState) (c : BitVec 2) : UnitState := { u with cnt := c }

/-- `GI <- GI + 1` (41_encoder.md R77). -/
def UnitState.nextGroup (u : UnitState) : UnitState := { u with gi := u.gi + 1 }

/-- One step of a running ENCODE: `CNT <- 3; do ENC.G3; GI <- GI + 1` while `GI < NG`, then `CNT <- REM`, the tail
operation and `finish` (41_encoder.md R77). The operation is the one `CNT` selects (30_encoding.md R62), also for `REM = 3`,
which no acceptance sets (DESIGN CHOICE, log 27). -/
def encodeTurn (s : State) : Ans State :=
  if s.unit.gi < s.unit.ng then
    chain (exec (decodeCnt 3#2) (s.withUnit (s.unit.withCnt 3#2))) fun s => .next (s.withUnit s.unit.nextGroup)
  else
    chain (exec (decodeCnt s.unit.rem) (s.withUnit (s.unit.withCnt s.unit.rem))) fun s => .next (s.withUnit s.unit.finish)

/-- `DEC.END` follows when the command still runs and no group is left (42_decoder.md R89, R94, R103). -/
def endIfComplete (s : State) : Ans State :=
  if s.unit.state = .busy ∧ s.unit.ng ≤ s.unit.gi then exec .decEnd s else .next s

/-- One text group in one step: fetch, lookup, classify, the action of the class `GCW` selects, and `DEC.END` if that
was the last group (42_decoder.md R89, 43_host_interface_and_variants.md R123). -/
def textGroup (s : State) : Ans State :=
  chain (exec .decFetch s) fun s =>
  chain (exec .decLookup s) fun s =>
  chain (exec .decClassify s) fun s =>
  chain (exec (decodeGcw s.unit.gcw) s) endIfComplete

/-- One step of a running DECODE: `DEC.LEN` first, then a text group a step (42_decoder.md R89). With no group left, which
no step leaves behind, it finishes (DESIGN CHOICE, log 26). -/
def decodeTurn (s : State) : Ans State :=
  match s.unit.phase with
  | .lengthCheck => chain (exec .decLen s) endIfComplete
  | .groups => if s.unit.gi < s.unit.ng then textGroup s else endIfComplete s

/-- One step of the unit in focus: the next group operation of the running command, else the command on the port,
else nothing (43_host_interface_and_variants.md R119, R123). -/
def unitTurn (s : State) : Ans State :=
  if s.unit.state = .busy then
    if cmdOp s.unit.cmd = 0#1 then encodeTurn s else decodeTurn s
  else if s.unit.cmdValid then exec (decodeCmd s.unit.portCmd) s
  else .next s

/-- One step of the Table Builder: each BUILD once after each reset, then nothing (40_table_build.md R75). -/
def builderTurn (a : Asel) (s : State) : Ans State :=
  if s.lutValid a then .next s else exec (.build a) s

/-- Whether a step of a unit changes anything: a command runs, or one is presented and not held for its table. -/
def UnitState.canMove (s : State) (u : UnitState) : Bool :=
  decide (u.state = .busy) || (u.cmdValid && !(heldForTable s u))

/-- Whose step comes when `events` names none: the unit in focus if it can move, else another unit that can is brought
into focus, else the Table Builder, else nothing happens. Every agent's step comes in the end, as weak fairness asks
(70_reset_and_hazards.md R144, R154; DESIGN CHOICE, log 14). -/
def defaultTurn (s : State) : Ans State :=
  if s.unit.canMove s then unitTurn s
  else if s.others.any (fun u => u.canMove s) then .next s.rotate
  else if s.lutValid0 = false then exec (.build .general) s
  else if s.lutValid1 = false then exec (.build .urlSafe) s
  else .next s

/-- One step of the machine: the agent or the host's move that `events` names next (log 14). A host that presents a
command while an earlier one is still on the port waits, and the default turn takes the step (log 16). -/
def agentTurn (s : State) : Ans State :=
  match s.events with
  | [] => defaultTurn s
  | .builderTurn a :: es => builderTurn a (s.withEvents es)
  | .unitTurn :: es => unitTurn (s.withEvents es)
  | .nextUnit :: es => .next (s.withEvents es).rotate
  | .present word buffer :: es =>
    if s.unit.cmdValid then defaultTurn s
    else .next ((s.withEvents es).withUnit (s.unit.present word buffer))
  | .reset :: es => .next (applyReset (s.withEvents es))

/-- `n` steps of the unit in focus, stopping at the first fault or refusal: what "its run" takes after acceptance
(43_host_interface_and_variants.md R121). -/
def unitTurns : Nat → State → Ans State
  | 0, s => .next s
  | n + 1, s => chain (unitTurn s) (unitTurns n)

end Sys2Proof.Machine
end

