-- ==== Sys2Proof/Machine/Place.lean ====
section
/-! DEFINITION. Placing a word where the machine's next step reads it: on the command port, in `CNT`, or as the text
group whose `GCW` it is (log 22). -/

namespace Sys2Proof.Machine

/-- Both tables built, as the Table Builder leaves them (70_reset_and_hazards.md R144). -/
def withTables (s : State) : State :=
  (s.withTable (buildTable s.params.alpha0 s.params.pad) .general).withTable
    (buildTable s.params.alpha1 s.params.pad) .urlSafe

/-- A command word on the port of a unit that runs no command, its step next; a DECODE finds its table built. -/
def placeCmd (s : State) (w : BitVec 4) : State :=
  let s := if cmdOp w = 1#1 then withTables s else s
  { s with
    events := [.unitTurn]
    unit := { s.unit with state := .idle, cmdValid := true, portCmd := w } }

/-- A running ENCODE whose next group has `CNT = w`: three zero bytes for a full group, else a tail of `w` bytes. -/
def placeCnt (s : State) (w : BitVec 2) : State :=
  { s with
    events := [.unitTurn]
    unit := { s.unit with
      state := .busy
      cmd := 0b0000#4
      gi := 0
      ng := if w = 3#2 then 1 else 0
      rem := if w = 3#2 then 0#2 else w
      inLen := w.toNat
      inBuf := Memory.ofList (List.replicate w.toNat 0#8)
      outLen := 0
      outBuf := [] } }

/-- A character whose entry under the general alphabet has the given flags: the first `Invalid` byte, `PAD`, or the first
character of the alphabet. -/
def charWithFlags (s : State) (inv padf : Bool) : Byte :=
  if inv then
    match ((List.range 256).map (BitVec.ofNat 8)).find? fun c =>
        Memory.read s.lut0 c.toNat == some .invalid with
    | some c => c
    | none => 0#8
  else if padf then s.params.pad
  else s.params.alpha0.headD 0#8

/-- A running DECODE whose next text group forms `GCW = w` (for a word no position of which is both `Invalid` and
`Padding`; of such a position the `Invalid` flag is formed). -/
def placeGcw (s : State) (w : BitVec 8) : State :=
  let s := withTables s
  { s with
    events := [.unitTurn]
    unit := { s.unit with
      state := .busy
      cmd := 0b0001#4
      phase := .groups
      gi := 0
      ng := 1
      inLen := 4
      inBuf := Memory.ofList
        [charWithFlags s (w.getLsbD 7) (w.getLsbD 3), charWithFlags s (w.getLsbD 6) (w.getLsbD 2),
         charWithFlags s (w.getLsbD 5) (w.getLsbD 1), charWithFlags s (w.getLsbD 4) (w.getLsbD 0)]
      outLen := 0
      outBuf := [] } }

/-- A word placed under its format. -/
def placeWord (s : State) (f : Format) (w : Nat) : State :=
  match f with
  | .cmd4 => placeCmd s (BitVec.ofNat 4 w)
  | .cnt2 => placeCnt s (BitVec.ofNat 2 w)
  | .gcw8 => placeGcw s (BitVec.ofNat 8 w)

end Sys2Proof.Machine
end

