-- ==== Sys2Proof/Machine/Step.lean ====
section
/-! DEFINITION. The step of the machine, and the placing of a table word where the next step reads it. -/

namespace Sys2Proof.Machine

/-- One step: one step of one agent, or one move of the host (43_host_interface_and_variants.md R123). -/
def step (s : State) : Host.Outcome State Fault Refusal := agentTurn s

/-- The state whose next step runs the instruction of a table word (log 21, 22). -/
def State.withFetchWord (s : State) (nbits w : Nat) : State := placeWord s (tableFormat nbits w) w

end Sys2Proof.Machine
end

