-- ==== Sys2Proof/Machine/Buffer.lean ====
section
/-! DEFINITION. The whole-buffer functions `build`, `enc` and `dec`, which "are the definition" of the operations
(00_scope.md R14). -/

namespace Sys2Proof.Machine

/-- The greatest index, counted from `i`, at which a character stands in an alphabet. -/
def lastIndexFrom : Nat → List Byte → Byte → Option Nat
  | _, [], _ => none
  | i, x :: xs, c =>
    match lastIndexFrom (i + 1) xs c with
    | some j => some j
    | none => if x = c then some i else none

/-- `build(A, p)`: `Value(i)` for the greatest index `i` with `A[i] = c` if there is one, else `Padding` if `c = p`,
else `Invalid` (40_table_build.md R70). -/
def build (alphabet : List Byte) (pad c : Byte) : Entry :=
  match lastIndexFrom 0 alphabet c with
  | some i => .value (BitVec.ofNat 8 i)
  | none => if c = pad then .padding else .invalid

/-- `enc(A, s)` (41_encoder.md R88). -/
def enc (alphabet : Sextet → Byte) (pad : Byte) : List Byte → List Byte
  | [] => []
  | [b0] => [alphabet (sextet0 b0), alphabet (sextet1Tail b0), pad, pad]
  | [b0, b1] => [alphabet (sextet0 b0), alphabet (sextet1 b0 b1), alphabet (sextet2Tail b1), pad]
  | b0 :: b1 :: b2 :: rest =>
    alphabet (sextet0 b0) :: alphabet (sextet1 b0 b1) :: alphabet (sextet2 b1 b2) :: alphabet (sextet3 b2) ::
      enc alphabet pad rest

/-- The sextet of an entry; only that of a `Value` is ever used (42_decoder.md R92). -/
def Entry.sextet : Entry → Sextet
  | .value v => v.setWidth 6
  | .padding => 0#6
  | .invalid => 0#6

/-- The loop `go` of `dec` (42_decoder.md R108). The last arm, one to three characters, is never reached: the length is
a multiple of 4. -/
def decGo (table : Byte → Entry) (policy : TrailPolicy) : List Byte → List Byte → Except DecodeError (List Byte)
  | [], acc => .ok acc
  | c0 :: c1 :: c2 :: c3 :: rest, acc =>
    let v0 := (table c0).sextet
    let v1 := (table c1).sextet
    let v2 := (table c2).sextet
    let v3 := (table c3).sextet
    match classify (table c0) (table c1) (table c2) (table c3) with
    | .badChar => .error .badCharacter
    | .full => decGo table policy rest (acc ++ [outByte0 v0 v1, outByte1 v1 v2, outByte2 v2 v3])
    | .tail2 =>
      if policy = .reject ∧ rest ≠ [] then .error .badPadding else .ok (acc ++ [outByte0 v0 v1, outByte1 v1 v2])
    | .tail1 =>
      if policy = .reject ∧ rest ≠ [] then .error .badPadding else .ok (acc ++ [outByte0 v0 v1])
    | .badPad => .error .badPadding
  | _ :: _, _ => .error .badFormat

/-- `dec(T, pol, t)` (42_decoder.md R108). -/
def dec (table : Byte → Entry) (policy : TrailPolicy) (text : List Byte) : Except DecodeError (List Byte) :=
  if text.length % 4 ≠ 0 then .error .badFormat else decGo table policy text []

/-- An alphabet of 64 characters as the function from sextets that `enc` takes (41_encoder.md R88). -/
def alphabetFn (p : Params) (a : Asel) (x : Sextet) : Byte := (alphaOf p a).getD x.toNat 0#8

/-- The table of alphabet `a` as the function from characters that `dec` takes (42_decoder.md R108). -/
def tableFn (p : Params) (a : Asel) : Byte → Entry := build (alphaOf p a) p.pad

end Sys2Proof.Machine
end

