-- ==== Sys2Proof/Safety.lean ====
section
/-! DEFINITION. What a good state is, in the terms the statements use: invariants of the machine. -/

namespace Sys2Proof.Safety

open Sys2Proof.Machine

/-- Every unit of a machine: the one in focus and the others. -/
def unitsOf (s : State) : List UnitState := s.unit :: s.others

/-- The three memories of a unit are in canonical form. -/
def unitMemoriesWf (u : UnitState) : Bool :=
  Memory.wf u.inBuf && Memory.wf u.outBuf && Memory.wf u.portIn

/-- Every memory of the machine is in canonical form. -/
def memoriesWf (s : State) : Bool :=
  Memory.wf s.lut0 && Memory.wf s.lut1 && (unitsOf s).all unitMemoriesWf

/-- `ERR` is "0 whenever `STATE` is not `FAIL`", and names an error in `FAIL` (10_state.md R27). -/
def statusOk (u : UnitState) : Prop := u.state = .fail ↔ u.err ≠ none

/-- A valid table holds what BUILD makes: `LUT[a] = build(ALPHA[a], PAD)` (70_reset_and_hazards.md R144). -/
def tablesBuilt (s : State) : Prop :=
  ∀ a : Asel, s.lutValid a = true → ∀ c : Byte, Memory.read (s.lut a) c.toNat = some (tableFn s.params a c)

/-- The counters of a running ENCODE: `NG`, `REM`, `GI <= NG`, four characters a group (10_state.md R25,
41_encoder.md R77). -/
def encodeCounters (u : UnitState) : Prop :=
  u.ng = u.inLen / 3 ∧ u.rem.toNat = u.inLen % 3 ∧ u.gi ≤ u.ng ∧ u.outLen = 4 * u.gi

/-- The counters of a running DECODE: nothing done before the length check, three bytes a group after it
(10_state.md R25, 42_decoder.md R89). -/
def decodeCounters (u : UnitState) : Prop :=
  match u.phase with
  | .lengthCheck => u.gi = 0 ∧ u.outLen = 0
  | .groups => u.inLen % 4 = 0 ∧ u.ng = u.inLen / 4 ∧ u.gi < u.ng ∧ u.outLen = 3 * u.gi

/-- The sequencer of a unit: the counters of a running command, and the output length of a finished one
(41_encoder.md R84, 42_decoder.md R106). -/
def sequencerOk (u : UnitState) : Prop :=
  (u.state = .busy → cmdBase u.cmd = 0#2) ∧
  (u.state = .busy → cmdOp u.cmd = 0#1 → encodeCounters u) ∧
  (u.state = .busy → cmdOp u.cmd = 1#1 → decodeCounters u) ∧
  (u.state = .done → cmdOp u.cmd = 0#1 → u.outLen = 4 * ((u.inLen + 2) / 3)) ∧
  (u.state = .done → cmdOp u.cmd = 1#1 → u.outLen ≤ 3 * u.inLen / 4) ∧
  (u.state = .fail → cmdOp u.cmd = 1#1)

/-- A memory is a buffer of `n` bytes: cells 0 to `n - 1`, all present (00_scope.md R14, 70_reset_and_hazards.md R145). -/
def isBuffer (m : Memory Byte) (n : Nat) : Prop := m = Memory.ofList m.values ∧ m.length = n

/-- `OUT` of an ENCODE: `enc` of the groups done so far, and of the whole input in `DONE` (41_encoder.md R88). -/
def encodeOutput (p : Params) (u : UnitState) : Prop :=
  (u.state = .busy →
    u.outBuf = Memory.ofList (enc (alphabetFn p u.asel) p.pad (u.inBuf.values.take (3 * u.gi)))) ∧
  (u.state = .done → u.outBuf = Memory.ofList (enc (alphabetFn p u.asel) p.pad u.inBuf.values))

/-- `OUT` and `ERR` of a DECODE: what is left to do continues `dec`; in `DONE` the result is `dec`'s, in `FAIL` the error
is `dec`'s (42_decoder.md R108). -/
def decodeOutput (p : Params) (u : UnitState) : Prop :=
  (u.state = .busy → u.phase = .lengthCheck → u.outBuf = []) ∧
  (u.state = .busy → u.phase = .groups →
    u.outBuf = Memory.ofList u.outBuf.values ∧
    decGo (tableFn p u.asel) p.trail (u.inBuf.values.drop (4 * u.gi)) u.outBuf.values =
      dec (tableFn p u.asel) p.trail u.inBuf.values) ∧
  (u.state = .done →
    u.outBuf = Memory.ofList u.outBuf.values ∧
    dec (tableFn p u.asel) p.trail u.inBuf.values = .ok u.outBuf.values) ∧
  (∀ e, u.state = .fail → u.err = some e → dec (tableFn p u.asel) p.trail u.inBuf.values = .error e)

/-- Everything that must hold of a unit for its result to be that of the whole-buffer functions. -/
def unitCorrect (s : State) (u : UnitState) : Prop :=
  statusOk u ∧ sequencerOk u ∧ isBuffer u.portIn u.portInLen ∧
  (u.state ≠ .idle → isBuffer u.inBuf u.inLen) ∧
  (u.state = .busy ∨ u.state = .done → u.outBuf.length = u.outLen) ∧
  (u.state = .busy → cmdOp u.cmd = 1#1 → s.lutValid u.asel = true) ∧
  (cmdOp u.cmd = 0#1 → encodeOutput s.params u) ∧
  (cmdOp u.cmd = 1#1 → decodeOutput s.params u)

/-- The correctness invariant of the codec: valid tables are built, and every unit computes `enc` and `dec`
(00_scope.md R14: the step form and the whole-buffer functions "must agree"). -/
def codecCorrect (s : State) : Prop := tablesBuilt s ∧ ∀ u ∈ unitsOf s, unitCorrect s u

/-- `OUT` after some appends: the bytes stand in the next cells, `OUT_LEN` counts them, and every other cell reads as
before (20_memory.md R35). -/
def appended (u v : UnitState) (bytes : List Byte) : Prop :=
  v.outLen = u.outLen + bytes.length ∧
  (∀ k c, bytes[k]? = some c → Memory.read v.outBuf (u.outLen + k) = some c) ∧
  (∀ i, i < u.outLen ∨ u.outLen + bytes.length ≤ i → Memory.read v.outBuf i = Memory.read u.outBuf i)

/-- An alphabet that meets the requirements of 10_state.md R15: 64 distinct characters, none of them `PAD`. -/
def alphabetWellFormed (alphabet : List Byte) (pad : Byte) : Prop :=
  alphabet.length = 64 ∧ alphabet.Nodup ∧ pad ∉ alphabet

/-- A unit that runs no command and has one on its port, with its whole input buffer (70_reset_and_hazards.md R145). -/
def presents (u : UnitState) (word : BitVec 4) (input : List Byte) : Prop :=
  u.state ≠ .busy ∧ u.cmdValid = true ∧ u.portCmd = word ∧ u.portInLen = input.length ∧ u.portIn = Memory.ofList input

end Sys2Proof.Safety
end

