-- ==== Sys2Proof/Certificates/Slice0/Obligations.lean ====
section
/-! DEFINITION. The statements for the provers. Each says which rule of spec/ it formalises. -/

open Sys2Proof Sys2Proof.Machine Sys2Proof.Safety

/-! ## The step, the words and the formats -/

/-- 43_host_interface_and_variants.md R119, R123: which steps are the unit's, and which operation a unit's step runs. A step
is the unit's when `events` names it, and, with no event to come or with the host waiting for the port, when a command runs
or one is presented that does not wait for its table (the schedule is the model's, log 14, 16). A unit's step runs the
operation its selector names: the command on the port; for a running ENCODE the operation of `CNT`, with `CNT` set before,
and `GI` advanced or the command finished after; for a running DECODE `DEC.LEN`, or fetch, lookup, classify and the
operation of `GCW`, with `DEC.END` if no group is left (log 12). -/
def Obligations.StepRunsTheSelectedOperation : Prop :=
  ∀ s : State,
    (∀ es : List Event, s.events = .unitTurn :: es → step s = unitTurn (s.withEvents es)) ∧
    ((s.events = [] ∨ (s.unit.cmdValid = true ∧ ∃ w buffer es, s.events = .present w buffer :: es)) →
      (s.unit.state = .busy ∨
        (s.unit.cmdValid = true ∧ ¬ (cmdBase s.unit.portCmd = 0#2 ∧ cmdOp s.unit.portCmd = 1#1 ∧
          s.lutValid (cmdAsel s.unit.portCmd) = false))) →
      step s = unitTurn s) ∧
    (s.unit.state ≠ .busy → s.unit.cmdValid = true → unitTurn s = exec (decodeCmd s.unit.portCmd) s) ∧
    (s.unit.state ≠ .busy → s.unit.cmdValid = false → unitTurn s = .next s) ∧
    (s.unit.state = .busy → cmdOp s.unit.cmd = 0#1 → s.unit.gi < s.unit.ng →
      unitTurn s = chain (exec .encG3 (s.withUnit { s.unit with cnt := 3#2 })) fun t =>
        .next (t.withUnit { t.unit with gi := t.unit.gi + 1 })) ∧
    (s.unit.state = .busy → cmdOp s.unit.cmd = 0#1 → s.unit.ng ≤ s.unit.gi →
      unitTurn s = chain (exec (decodeCnt s.unit.rem) (s.withUnit { s.unit with cnt := s.unit.rem }))
        fun t => .next (t.withUnit { t.unit with state := .done })) ∧
    (s.unit.state = .busy → cmdOp s.unit.cmd = 1#1 → s.unit.phase = .lengthCheck →
      unitTurn s = chain (exec .decLen s) endIfComplete) ∧
    (s.unit.state = .busy → cmdOp s.unit.cmd = 1#1 → s.unit.phase = .groups → s.unit.gi < s.unit.ng →
      unitTurn s = chain (exec .decFetch s) fun s1 => chain (exec .decLookup s1) fun s2 =>
        chain (exec .decClassify s2) fun s3 => chain (exec (decodeGcw s3.unit.gcw) s3) endIfComplete) ∧
    (s.unit.state = .busy → s.unit.ng ≤ s.unit.gi → endIfComplete s = exec .decEnd s) ∧
    (s.unit.state ≠ .busy ∨ s.unit.gi < s.unit.ng → endIfComplete s = .next s)

/-- Words written out from 30_encoding.md R59, R61 and R62 decode to the operations they stand for. -/
def Obligations.SpecWordsDecode : Prop :=
  decodeCmd 0b0000#4 = .encode .general ∧ decodeCmd 0b0010#4 = .encode .urlSafe ∧
  decodeCmd 0b0001#4 = .decode .general ∧ decodeCmd 0b0011#4 = .decode .urlSafe ∧
  decodeCmd 0b0100#4 = .reservedBase16 .general 0#1 ∧ decodeCmd 0b1001#4 = .reservedBase32 .general 1#1 ∧
  decodeCnt 0b11#2 = .encG3 ∧ decodeCnt 0b01#2 = .encT1 ∧
  decodeGcw 0b00100100#8 = .decBadcharP2 0b00100#5 ∧ decodeGcw 0b00000011#8 = .decTail1 ∧
  decodeGcw 0b00000111#8 = .decBadpadP1 0b11#2

/-- 30_encoding.md R60: the fields of a command word and what each of the sixteen words selects. -/
def Obligations.CommandWordFields : Prop :=
  ∀ (base : BitVec 2) (a : Asel) (op : BitVec 1),
    cmdBase (base ++ (if a = .general then 0#1 else 1#1) ++ op) = base ∧
    cmdAsel (base ++ (if a = .general then 0#1 else 1#1) ++ op) = a ∧
    cmdOp (base ++ (if a = .general then 0#1 else 1#1) ++ op) = op ∧
    decodeCmd (base ++ (if a = .general then 0#1 else 1#1) ++ op) =
      (if base = 0b00#2 then (if op = 0#1 then .encode a else .decode a)
       else if base = 0b01#2 then .reservedBase16 a op
       else if base = 0b10#2 then .reservedBase32 a op
       else .reservedBase3 a op)

/-- 30_encoding.md R62: the group operation of each `CNT`; a running ENCODE sets `CNT` to 3 for each of its `NG` groups
and to `REM` for the last, partial one. -/
def Obligations.CountSelectsGroupOperation : Prop :=
  decodeCnt 0b11#2 = .encG3 ∧ decodeCnt 0b01#2 = .encT1 ∧ decodeCnt 0b10#2 = .encT2 ∧ decodeCnt 0b00#2 = .encT0 ∧
  ∀ s t : State, s.unit.state = .busy → cmdOp s.unit.cmd = 0#1 → s.unit.gi ≤ s.unit.ng → unitTurn s = .next t →
    t.unit.cnt = if s.unit.gi < s.unit.ng then 3#2 else s.unit.rem

/-- 30_encoding.md R59: the ten patterns, bit 7 first, and how many words each class has. -/
def Obligations.ClassMapRows : Prop :=
  (∀ r : BitVec 7, decodeGcw (0b1#1 ++ r) = .decBadcharP0 r) ∧
  (∀ r : BitVec 6, decodeGcw (0b01#2 ++ r) = .decBadcharP1 r) ∧
  (∀ r : BitVec 5, decodeGcw (0b001#3 ++ r) = .decBadcharP2 r) ∧
  (∀ r : BitVec 4, decodeGcw (0b0001#4 ++ r) = .decBadcharP3 r) ∧
  decodeGcw 0b00000000#8 = .decFull ∧ decodeGcw 0b00000001#8 = .decTail2 ∧ decodeGcw 0b00000011#8 = .decTail1 ∧
  decodeGcw 0b00000010#8 = .decBadpadP2 ∧
  (∀ r : BitVec 2, decodeGcw (0b000001#6 ++ r) = .decBadpadP1 r) ∧
  (∀ r : BitVec 3, decodeGcw (0b00001#5 ++ r) = .decBadpadP0 r) ∧
  ((List.range 256).filter fun w => instrClass (decodeGcw (BitVec.ofNat 8 w)) = some .badChar).length
    = 128 + 64 + 32 + 16 ∧
  (∀ g : BitVec 8, g.extractLsb' 4 4 ≠ 0#4 → instrClass (decodeGcw g) = some .badChar) ∧
  ((List.range 256).filter fun w => instrClass (decodeGcw (BitVec.ofNat 8 w)) = some .badPad).length = 1 + 4 + 8

/-- 30_encoding.md R58: bit `7-k` of `GCW` is the `INV` flag of the entry at position `k`, bit `3-k` its `PADF` flag; of
entries in the layout of 10_state.md R21 no position has both flags, and the class selected is well formed. -/
def Obligations.GroupClassWordLayout : Prop :=
  (∀ e0 e1 e2 e3 : Byte,
    (gcwOf e0 e1 e2 e3).getLsbD 7 = e0.getLsbD 7 ∧ (gcwOf e0 e1 e2 e3).getLsbD 6 = e1.getLsbD 7 ∧
    (gcwOf e0 e1 e2 e3).getLsbD 5 = e2.getLsbD 7 ∧ (gcwOf e0 e1 e2 e3).getLsbD 4 = e3.getLsbD 7 ∧
    (gcwOf e0 e1 e2 e3).getLsbD 3 = e0.getLsbD 6 ∧ (gcwOf e0 e1 e2 e3).getLsbD 2 = e1.getLsbD 6 ∧
    (gcwOf e0 e1 e2 e3).getLsbD 1 = e2.getLsbD 6 ∧ (gcwOf e0 e1 e2 e3).getLsbD 0 = e3.getLsbD 6) ∧
  (∀ (x0 x1 x2 x3 : Entry) (e0 e1 e2 e3 : Byte),
    Entry.layout x0 = some e0 → Entry.layout x1 = some e1 → Entry.layout x2 = some e2 → Entry.layout x3 = some e3 →
    (∀ k, k < 4 → ((gcwOf e0 e1 e2 e3).getLsbD (7 - k) && (gcwOf e0 e1 e2 e3).getLsbD (3 - k)) = false) ∧
    (decodeGcw (gcwOf e0 e1 e2 e3)).wellFormed = true) ∧
  (∀ g : BitVec 8, (instrClass (decodeGcw g)).isSome = true)

/-- 42_decoder.md R93: the class that `GCW` selects is the validator's function of the four tags. -/
def Obligations.ClassMapAgreesWithValidator : Prop :=
  ∀ (x0 x1 x2 x3 : Entry) (e0 e1 e2 e3 : Byte),
    Entry.layout x0 = some e0 → Entry.layout x1 = some e1 → Entry.layout x2 = some e2 → Entry.layout x3 = some e3 →
    instrClass (decodeGcw (gcwOf e0 e1 e2 e3)) = some (classify x0 x1 x2 x3)

/-- Decode and encode agree, over every operation and every word of the three formats: the word of an operation decodes
to the operation (a wrapper to the one it spells), and an operation that a word decodes to has that word. -/
def Obligations.EncodedWordsDecode : Prop :=
  (∀ (i : Instr) (f : Format) (w : Nat), encode i = some (f, w) → decodeWord f w = .ok i.core) ∧
  (∀ (f : Format) (w : Nat) (i : Instr), decodeWord f w = .ok i → encode i = some (f, w))

/-- 10_state.md R21: the byte of each kind of entry, its three fields, and that a table BUILD has written for an alphabet
of at most 64 characters holds no other byte. -/
def Obligations.TableEntryLayout : Prop :=
  Entry.layout .invalid = some 0x80#8 ∧ Entry.layout .padding = some 0x40#8 ∧
  (∀ v : Byte, v < 64#8 → Entry.layout (.value v) = some v) ∧
  (∀ (e : Entry) (b : Byte), Entry.layout e = some b →
    (entryInv b = 1#1 ↔ e = .invalid) ∧ (entryPadf b = 1#1 ↔ e = .padding) ∧
    (∀ v, e = .value v → entryVal b = v.setWidth 6) ∧ ((∀ v, e ≠ .value v) → entryVal b = 0#6)) ∧
  (∀ (alphabet : List Byte) (pad : Byte) (c : Nat) (e : Entry), alphabet.length ≤ 64 →
    Memory.read (buildTable alphabet pad) c = some e →
    ∃ b, Entry.layout e = some b ∧ (b < 0x40#8 ∨ b = 0x40#8 ∨ b = 0x80#8))

/-- 30_encoding.md R51 to R54: the sextets as shifts and masks of the bytes, in a full group and in both tails, and the
24 bits of the group read both ways. -/
def Obligations.SextetsOfBytes : Prop :=
  ∀ b0 b1 b2 : Byte,
    b0 ++ b1 ++ b2 = sextet0 b0 ++ sextet1 b0 b1 ++ sextet2 b1 b2 ++ sextet3 b2 ∧
    (sextet0 b0).setWidth 8 = b0 >>> 2 ∧
    (sextet1 b0 b1).setWidth 8 = ((b0 &&& 0x03#8) <<< 4) ||| (b1 >>> 4) ∧
    (sextet2 b1 b2).setWidth 8 = ((b1 &&& 0x0F#8) <<< 2) ||| (b2 >>> 6) ∧
    (sextet3 b2).setWidth 8 = b2 &&& 0x3F#8 ∧
    (sextet1Tail b0).setWidth 8 = (b0 &&& 0x03#8) <<< 4 ∧
    (sextet2Tail b1).setWidth 8 = (b1 &&& 0x0F#8) <<< 2

/-- 30_encoding.md R56: the bytes as the document's shifts cut to 8 bits, and that they invert the sextets of a full
group, of a two-byte tail and of a one-byte tail. -/
def Obligations.BytesOfSextets : Prop :=
  (∀ v0 v1 v2 v3 : Sextet,
    outByte0 v0 v1 = ((v0.setWidth 16 <<< 2) ||| (v1.setWidth 16 >>> 4)).setWidth 8 ∧
    outByte1 v1 v2 = ((v1.setWidth 16 <<< 4) ||| (v2.setWidth 16 >>> 2)).setWidth 8 ∧
    outByte2 v2 v3 = ((v2.setWidth 16 <<< 6) ||| v3.setWidth 16).setWidth 8) ∧
  (∀ b0 b1 b2 : Byte,
    outByte0 (sextet0 b0) (sextet1 b0 b1) = b0 ∧ outByte1 (sextet1 b0 b1) (sextet2 b1 b2) = b1 ∧
    outByte2 (sextet2 b1 b2) (sextet3 b2) = b2 ∧
    outByte1 (sextet1 b0 b1) (sextet2Tail b1) = b1 ∧ outByte0 (sextet0 b0) (sextet1Tail b0) = b0)

/-! ## Reset and commands -/

/-- 10_state.md R31, the values the spec states for reset, with the constants of R16 to R18 (the characters are the
spec's general knowledge, log 2). -/
def Obligations.ResetValues : Prop :=
  State.reset.unit.state = .idle ∧ State.reset.unit.err = none ∧ State.reset.unit.outLen = 0 ∧
  State.reset.lutValid0 = false ∧ State.reset.lutValid1 = false ∧
  State.reset.params.pad = 0x3D#8 ∧ State.reset.params.trail = .ignore ∧ State.reset.params.lenW = none ∧
  State.reset.params.alpha0.length = 64 ∧ State.reset.params.alpha1.length = 64 ∧
  State.reset.params.alpha0.take 62 = State.reset.params.alpha1.take 62 ∧
  State.reset.params.alpha0.drop 62 = [0x2B#8, 0x2F#8] ∧ State.reset.params.alpha1.drop 62 = [0x2D#8, 0x5F#8]

/-- 70_reset_and_hazards.md R142, R153: `rst` in any state. The tables have no value, nothing is valid, every unit is
idle with no error; the parameters and the host's buffers stay, but `OUT` of a command cut short, of which nothing is
said. -/
def Obligations.ResetTakesEffectInOneStep : Prop :=
  ∀ (s : State) (es : List Event), s.events = .reset :: es →
    ∃ t, step s = .next t ∧ t.params = s.params ∧ t.events = es ∧
      t.lut0 = [] ∧ t.lut1 = [] ∧ t.lutValid0 = false ∧ t.lutValid1 = false ∧
      (unitsOf t).length = (unitsOf s).length ∧
      (∀ u ∈ unitsOf t, u.state = .idle ∧ u.err = none ∧ u.outLen = 0) ∧
      (unitsOf t).map (fun u => (u.inBuf, u.portIn, u.portInLen, u.portCmd, u.cmdValid)) =
        (unitsOf s).map (fun u => (u.inBuf, u.portIn, u.portInLen, u.portCmd, u.cmdValid)) ∧
      (∀ (k : Nat) (u v : UnitState), (unitsOf s)[k]? = some u → (unitsOf t)[k]? = some v → u.state ≠ .busy → v.outBuf = u.outBuf)

/-- 43_host_interface_and_variants.md R118, R119, in the order of the four conditions, of the command on the port of a unit
that is not busy: reserved words are refused; a DECODE without its table waits; a decode through an alphabet of another
size than 64 is refused (00_scope.md R6); lengths that do not fit are refused; otherwise the command is accepted, and
`cmd_ready` is 1 exactly then (0 also while `STATE = BUSY`, and, the model's choice of log 28, while no command is
presented). The order of the checks is log 13. -/
def Obligations.CommandOnThePort : Prop :=
  ∀ s : State,
    (s.unit.state = .busy ∨ s.unit.cmdValid = false → cmdReady s s.unit = false) ∧
    (s.unit.state ≠ .busy → s.unit.cmdValid = true →
      if cmdBase s.unit.portCmd ≠ 0#2 then (∃ r, unitTurn s = .refused r) ∧ cmdReady s s.unit = false
      else if cmdOp s.unit.portCmd = 0#1 then
        if fitsLen s.params s.unit.portInLen ∧ fitsLen s.params (4 * ((s.unit.portInLen + 2) / 3)) then
          cmdReady s s.unit = true ∧
          ∃ t, unitTurn s = .next t ∧ t.unit.cmd = s.unit.portCmd ∧ t.unit.inLen = s.unit.portInLen ∧
            t.unit.inBuf = s.unit.portIn ∧ t.unit.state = .busy ∧ t.unit.err = none ∧ t.unit.outLen = 0 ∧
            t.unit.outBuf = [] ∧ t.unit.gi = 0 ∧ t.unit.cmdValid = false
        else unitTurn s = .refused .lengthTooWide ∧ cmdReady s s.unit = false
      else if s.lutValid (cmdAsel s.unit.portCmd) = false then unitTurn s = .next s ∧ cmdReady s s.unit = false
      else if alen s.params (cmdAsel s.unit.portCmd) ≠ 64 then
        unitTurn s = .refused .tableSizeNot64 ∧ cmdReady s s.unit = false
      else if fitsLen s.params s.unit.portInLen ∧ fitsLen s.params (3 * s.unit.portInLen / 4) then
        cmdReady s s.unit = true ∧
        ∃ t, unitTurn s = .next t ∧ t.unit.cmd = s.unit.portCmd ∧ t.unit.inLen = s.unit.portInLen ∧
          t.unit.inBuf = s.unit.portIn ∧ t.unit.state = .busy ∧ t.unit.err = none ∧ t.unit.outLen = 0 ∧
          t.unit.outBuf = [] ∧ t.unit.gi = 0 ∧ t.unit.cmdValid = false
      else unitTurn s = .refused .lengthTooWide ∧ cmdReady s s.unit = false)

/-- ENCODE and B64ENCODE complete when the unit is free and the lengths fit: their acceptance, with everything else
unchanged (41_encoder.md R77, 43_host_interface_and_variants.md R119). -/
def Obligations.EncodeIsAccepted : Prop :=
  ∀ (s : State) (a : Asel) (i : Instr), (i = .encode a ∨ (i = .b64encode ∧ a = .general)) →
    s.unit.state ≠ .busy → fitsLen s.params s.unit.portInLen = true →
    fitsLen s.params (4 * ((s.unit.portInLen + 2) / 3)) = true →
    exec i s = .next { s with unit := { s.unit with
      cmd := if a = .general then 0b0000#4 else 0b0010#4
      inLen := s.unit.portInLen, inBuf := s.unit.portIn, cmdValid := false
      state := .busy, err := none, outLen := 0, outBuf := [], gi := 0
      ng := s.unit.portInLen / 3, rem := BitVec.ofNat 2 (s.unit.portInLen % 3), phase := .groups } }

/-- DECODE and B64DECODE complete when the unit is free, the table is valid and has 64 characters, and the lengths fit:
their acceptance, with everything else unchanged (42_decoder.md R89, 43_host_interface_and_variants.md R119); that `NG` and
`REM` are among what is unchanged is the model's choice (log 29). -/
def Obligations.DecodeIsAccepted : Prop :=
  ∀ (s : State) (a : Asel) (i : Instr), (i = .decode a ∨ (i = .b64decode ∧ a = .general)) →
    s.unit.state ≠ .busy → s.lutValid a = true → alen s.params a = 64 →
    fitsLen s.params s.unit.portInLen = true → fitsLen s.params (3 * s.unit.portInLen / 4) = true →
    exec i s = .next { s with unit := { s.unit with
      cmd := if a = .general then 0b0001#4 else 0b0011#4
      inLen := s.unit.portInLen, inBuf := s.unit.portIn, cmdValid := false
      state := .busy, err := none, outLen := 0, outBuf := [], gi := 0, phase := .lengthCheck } }

/-- 43_host_interface_and_variants.md R114, R115: a wrapper's word is that of `ENCODE 0` or `DECODE 0`, and it does
nothing else in any state. -/
def Obligations.WrappersAreSpellings : Prop :=
  encode .b64encode = encode (.encode .general) ∧ encode .b64decode = encode (.decode .general) ∧
  (∀ s : State, exec .b64encode s = exec (.encode .general) s) ∧
  (∀ s : State, exec .b64decode s = exec (.decode .general) s)

/-- 43_host_interface_and_variants.md R119: a command is held while `STATE = BUSY`, and a DECODE while its table is not
valid: the state stays as it is. A length that does not fit is refused (00_scope.md R8), and so is a decode through a
table of another size than 64 (00_scope.md R6). -/
def Obligations.CommandsAreHeldOrRefused : Prop :=
  ∀ (s : State) (a : Asel),
    (s.unit.state = .busy → exec (.encode a) s = .next s ∧ exec (.decode a) s = .next s ∧
      exec .b64encode s = .next s ∧ exec .b64decode s = .next s) ∧
    (s.lutValid a = false → exec (.decode a) s = .next s) ∧
    (s.unit.state ≠ .busy → (fitsLen s.params s.unit.portInLen && fitsLen s.params (encodedLen s.unit.portInLen)) = false →
      exec (.encode a) s = .refused .lengthTooWide) ∧
    (s.unit.state ≠ .busy → s.lutValid a = true → alen s.params a ≠ 64 →
      exec (.decode a) s = .refused .tableSizeNot64) ∧
    (s.unit.state ≠ .busy → s.lutValid a = true → alen s.params a = 64 →
      (fitsLen s.params s.unit.portInLen && fitsLen s.params (decodedLenMax s.unit.portInLen)) = false →
      exec (.decode a) s = .refused .lengthTooWide)

/-- 43_host_interface_and_variants.md R117: every word with `BASE` not 00 is refused, by a name of its own. That `exec`
refuses it in every state, also while `STATE = BUSY`, where R119 holds a presented command, is the model's choice (log 13);
a busy unit's step does not look at the port (StepRunsTheSelectedOperation). -/
def Obligations.ReservedCommandsAreRefused : Prop :=
  ∀ (s : State) (w : BitVec 4),
    (w.extractLsb' 2 2 = 0b01#2 → exec (decodeCmd w) s = .refused .reservedBase16) ∧
    (w.extractLsb' 2 2 = 0b10#2 → exec (decodeCmd w) s = .refused .reservedBase32) ∧
    (w.extractLsb' 2 2 = 0b11#2 → exec (decodeCmd w) s = .refused .reservedBase3) ∧
    (∀ (a : Asel) (op : BitVec 1), exec (.reservedBase16 a op) s = .refused .reservedBase16 ∧
      exec (.reservedBase32 a op) s = .refused .reservedBase32 ∧ exec (.reservedBase3 a op) s = .refused .reservedBase3)

/-! ## BUILD -/

/-- 40_table_build.md R70, R73: BUILD has no encoding, and completes for every alphabet of 1 to 255 characters; the table holds
`build(ALPHA[a], PAD)` in all 256 cells and nothing else, it is valid, and nothing else changes. -/
def Obligations.BuildMakesTheTable : Prop :=
  ∀ (s : State) (a : Asel), 1 ≤ alen s.params a → alen s.params a ≤ 255 →
    encode (.build a) = none ∧ ∃ t, exec (.build a) s = .next t ∧ t.lutValid a = true ∧
      (∀ c : Byte, Memory.read (t.lut a) c.toNat = some (build (alphaOf s.params a) s.params.pad c)) ∧
      (∀ i, 256 ≤ i → Memory.read (t.lut a) i = none) ∧
      (∀ b, b ≠ a → t.lut b = s.lut b ∧ t.lutValid b = s.lutValid b) ∧
      t.params = s.params ∧ t.unit = s.unit ∧ t.others = s.others ∧ t.events = s.events ∧ t.freeCtr = s.freeCtr

/-- 10_state.md R20: for 64 distinct characters none of which is `PAD`, the table maps the character at `i` to
`Value(i)`, `PAD` to `Padding` and every other byte to `Invalid`. -/
def Obligations.WellFormedAlphabetTable : Prop :=
  ∀ (alphabet : List Byte) (pad : Byte), alphabetWellFormed alphabet pad →
    (∀ i c, alphabet[i]? = some c → build alphabet pad c = .value (BitVec.ofNat 8 i)) ∧
    build alphabet pad pad = .padding ∧
    (∀ c, c ∉ alphabet → c ≠ pad → build alphabet pad c = .invalid)

/-- 40_table_build.md R74: both built tables cell by cell, the counts of R20, and the four cells in which they differ. -/
def Obligations.BlockTables : Prop :=
  (∀ c, c < 256 → Memory.read (buildTable blockParams.alpha0 blockParams.pad) c = some
    (if 0x30 ≤ c ∧ c ≤ 0x39 then .value (BitVec.ofNat 8 (c - 0x30 + 52))
     else if 0x41 ≤ c ∧ c ≤ 0x5A then .value (BitVec.ofNat 8 (c - 0x41))
     else if 0x61 ≤ c ∧ c ≤ 0x7A then .value (BitVec.ofNat 8 (c - 0x61 + 26))
     else if c = 0x2B then .value 62#8 else if c = 0x2F then .value 63#8
     else if c = 0x3D then .padding else .invalid)) ∧
  (∀ c, c < 256 → Memory.read (buildTable blockParams.alpha1 blockParams.pad) c = some
    (if 0x30 ≤ c ∧ c ≤ 0x39 then .value (BitVec.ofNat 8 (c - 0x30 + 52))
     else if 0x41 ≤ c ∧ c ≤ 0x5A then .value (BitVec.ofNat 8 (c - 0x41))
     else if 0x61 ≤ c ∧ c ≤ 0x7A then .value (BitVec.ofNat 8 (c - 0x61 + 26))
     else if c = 0x2D then .value 62#8 else if c = 0x5F then .value 63#8
     else if c = 0x3D then .padding else .invalid)) ∧
  (∀ a : Asel,
    ((List.range 256).filter fun c => tableFn blockParams a (BitVec.ofNat 8 c) = .invalid).length = 191 ∧
    ((List.range 256).filter fun c => tableFn blockParams a (BitVec.ofNat 8 c) = .padding).length = 1 ∧
    ∀ v, v < 64 →
      ((List.range 256).filter fun c => tableFn blockParams a (BitVec.ofNat 8 c) = .value (BitVec.ofNat 8 v)).length = 1) ∧
  ((List.range 256).filter fun c =>
      tableFn blockParams .general (BitVec.ofNat 8 c) ≠ tableFn blockParams .urlSafe (BitVec.ofNat 8 c))
    = [0x2B, 0x2D, 0x2F, 0x5F]

/-- 40_table_build.md R71, R76: of two indices with one character the greater wins and no cell holds the other's value;
with `PAD` in the alphabet no cell holds `Padding`. -/
def Obligations.MalformedAlphabets : Prop :=
  (∀ (alphabet : List Byte) (pad c : Byte) (j : Nat), alphabet.length ≤ 255 → alphabet[j]? = some c →
    (∀ k, j < k → alphabet[k]? ≠ some c) → build alphabet pad c = .value (BitVec.ofNat 8 j)) ∧
  (∀ (alphabet : List Byte) (pad c : Byte) (i j : Nat), alphabet.length ≤ 255 → i < j →
    alphabet[i]? = some c → alphabet[j]? = some c →
    ∀ d, build alphabet pad d ≠ .value (BitVec.ofNat 8 i)) ∧
  (∀ (alphabet : List Byte) (pad : Byte), pad ∈ alphabet → ∀ d, build alphabet pad d ≠ .padding)

/-! ## The encoder -/

/-- 41_encoder.md R78, ENC.G3: `CNT = 11` selects it; with three bytes at `3*GI` it completes, appends the four characters of the sextets (as the
document's shifts and masks), and changes nothing else. -/
def Obligations.FullRawGroupIsEncoded : Prop :=
  decodeCnt 0b11#2 = .encG3 ∧
  ∀ (s : State) (b0 b1 b2 : Byte), alen s.params s.unit.asel = 64 → 3 * s.unit.gi + 2 < s.unit.inLen →
    Memory.read s.unit.inBuf (3 * s.unit.gi) = some b0 → Memory.read s.unit.inBuf (3 * s.unit.gi + 1) = some b1 →
    Memory.read s.unit.inBuf (3 * s.unit.gi + 2) = some b2 →
    let x0 : Sextet := (b0 >>> 2).setWidth 6
    let x1 : Sextet := (((b0 &&& 0x03#8) <<< 4) ||| (b1 >>> 4)).setWidth 6
    let x2 : Sextet := (((b1 &&& 0x0F#8) <<< 2) ||| (b2 >>> 6)).setWidth 6
    let x3 : Sextet := (b2 &&& 0x3F#8).setWidth 6
    let A := alphabetFn s.params s.unit.asel
    ∃ t, exec .encG3 s = .next t ∧ appended s.unit t.unit [A x0, A x1, A x2, A x3] ∧
      t = { s with unit := { s.unit with
        b0 := b0, b1 := b1, b2 := b2, s0 := x0, s1 := x1, s2 := x2, s3 := x3
        q0 := A x0, q1 := A x1, q2 := A x2, q3 := A x3, outBuf := t.unit.outBuf, outLen := t.unit.outLen } }

/-- 41_encoder.md R79, R80, ENC.T1 and ENC.T2: with the leftover bytes at `3*NG` they complete, append two or three
characters and then padding, and change nothing else: `B1`, `B2`, `S2`, `S3` (or `B2`, `S3`) are not written. -/
def Obligations.TailsAreEncoded : Prop :=
  ∀ (s : State) (b0 : Byte), alen s.params s.unit.asel = 64 → 3 * s.unit.ng < s.unit.inLen →
    Memory.read s.unit.inBuf (3 * s.unit.ng) = some b0 →
    let A := alphabetFn s.params s.unit.asel
    let x0 : Sextet := (b0 >>> 2).setWidth 6
    let y1 : Sextet := ((b0 &&& 0x03#8) <<< 4).setWidth 6
    (∃ t, exec .encT1 s = .next t ∧ appended s.unit t.unit [A x0, A y1, s.params.pad, s.params.pad] ∧
      t = { s with unit := { s.unit with
        b0 := b0, s0 := x0, s1 := y1, q0 := A x0, q1 := A y1, q2 := s.params.pad, q3 := s.params.pad
        outBuf := t.unit.outBuf, outLen := t.unit.outLen } }) ∧
    (∀ b1 : Byte, 3 * s.unit.ng + 1 < s.unit.inLen → Memory.read s.unit.inBuf (3 * s.unit.ng + 1) = some b1 →
      let x1 : Sextet := (((b0 &&& 0x03#8) <<< 4) ||| (b1 >>> 4)).setWidth 6
      let x2 : Sextet := ((b1 &&& 0x0F#8) <<< 2).setWidth 6
      ∃ t, exec .encT2 s = .next t ∧ appended s.unit t.unit [A x0, A x1, A x2, s.params.pad] ∧
        t = { s with unit := { s.unit with
          b0 := b0, b1 := b1, s0 := x0, s1 := x1, s2 := x2
          q0 := A x0, q1 := A x1, q2 := A x2, q3 := s.params.pad
          outBuf := t.unit.outBuf, outLen := t.unit.outLen } })

/-- 41_encoder.md R81, ENC.T0: `CNT = 00` selects it, and it reads, writes and appends nothing. -/
def Obligations.NoTailDoesNothing : Prop :=
  decodeCnt 0b00#2 = .encT0 ∧ ∀ s : State, exec .encT0 s = .next s

/-- 41_encoder.md R82, SUBST: with an alphabet of 64 characters it completes for every sextet and writes the character at
that index into `Q<q>` and nothing else; distinct characters make it injective; it never yields `PAD` of an alphabet that
does not hold it. -/
def Obligations.SubstitutionReadsTheAlphabet : Prop :=
  (∀ (s : State) (x : Sextet) (c : Byte), (alphaOf s.params s.unit.asel)[x.toNat]? = some c →
    exec (.subst .p0 x) s = .next { s with unit := { s.unit with q0 := c } } ∧
    exec (.subst .p1 x) s = .next { s with unit := { s.unit with q1 := c } } ∧
    exec (.subst .p2 x) s = .next { s with unit := { s.unit with q2 := c } } ∧
    exec (.subst .p3 x) s = .next { s with unit := { s.unit with q3 := c } }) ∧
  (∀ (p : Params) (a : Asel), alen p a = 64 → ∀ x : Sextet, (alphaOf p a)[x.toNat]? = some (alphabetFn p a x)) ∧
  (∀ (p : Params) (a : Asel), alphabetWellFormed (alphaOf p a) p.pad →
    (∀ x y : Sextet, alphabetFn p a x = alphabetFn p a y → x = y) ∧ ∀ x : Sextet, alphabetFn p a x ≠ p.pad)

/-- 60_exceptions.md R137: no encoder operation and no BUILD raises an error: where one completes, `ERR` and `FAIL` are as
before, or cleared by the acceptance of an ENCODE. -/
def Obligations.EncoderAndBuildRaiseNothing : Prop :=
  (∀ (s t : State) (i : Instr),
    (i = .encG3 ∨ i = .encT1 ∨ i = .encT2 ∨ i = .encT0 ∨ (∃ q x, i = .subst q x) ∨ (∃ a, i = .build a)) →
    exec i s = .next t → t.unit.err = s.unit.err ∧ t.unit.state = s.unit.state) ∧
  (∀ (s t : State) (i : Instr), ((∃ a, i = .encode a) ∨ i = .b64encode) → exec i s = .next t →
    t = s ∨ (t.unit.err = none ∧ t.unit.state = .busy)) ∧
  (∀ s t : State, s.unit.state = .busy → cmdOp s.unit.cmd = 0#1 → unitTurn s = .next t →
    t.unit.err = s.unit.err ∧ (t.unit.state = .busy ∨ t.unit.state = .done))

/-- 41_encoder.md R87: ENCODE does not use the tables: whatever they hold and whether or not they are valid, every
encoder operation answers the same. -/
def Obligations.EncoderIgnoresTheTables : Prop :=
  ∀ (s : State) (l0 l1 : Memory Entry) (v0 v1 : Bool) (i : Instr),
    ((∃ a, i = .encode a) ∨ i = .b64encode ∨ i = .encG3 ∨ i = .encT1 ∨ i = .encT2 ∨ i = .encT0 ∨
      ∃ q x, i = .subst q x) →
    exec i { s with lut0 := l0, lut1 := l1, lutValid0 := v0, lutValid1 := v1 } =
      chain (exec i s) fun t => .next { t with lut0 := l0, lut1 := l1, lutValid0 := v0, lutValid1 := v1 }

/-- 41_encoder.md R84: the output length of an ENCODE, of the whole-buffer function and of the step that finishes. -/
def Obligations.EncodedLength : Prop :=
  (∀ (A : Sextet → Byte) (pad : Byte) (input : List Byte),
    (enc A pad input).length = 4 * ((input.length + 2) / 3)) ∧
  (∀ n : Nat, 4 * ((n + 2) / 3) = (if n % 3 = 0 then 4 * (n / 3) else 4 * (n / 3) + 4) ∧
    4 * ((n + 2) / 3) % 4 = 0 ∧ 4 * ((n + 2) / 3) = ((4 * n + 2) / 3 + 3) / 4 * 4) ∧
  (∀ s t : State, sequencerOk s.unit → s.unit.state = .busy → cmdOp s.unit.cmd = 0#1 → unitTurn s = .next t →
    t.unit.state = .done → t.unit.outLen = 4 * ((s.unit.inLen + 2) / 3))

/-- 41_encoder.md R88, consequences: `enc` of a concatenation at a group boundary, and `PAD` only in the last two
positions. -/
def Obligations.EncodeOfConcatenation : Prop :=
  (∀ (A : Sextet → Byte) (pad : Byte) (xs ys : List Byte), xs.length % 3 = 0 →
    enc A pad (xs ++ ys) = enc A pad xs ++ enc A pad ys) ∧
  (∀ (A : Sextet → Byte) (pad : Byte) (xs : List Byte) (k : Nat), (∀ x, A x ≠ pad) →
    (enc A pad xs)[k]? = some pad → (enc A pad xs).length ≤ k + 2)

/-- 41_encoder.md R77, R85, R88 and 70_reset_and_hazards.md R154: an ENCODE on the port of a free unit runs to `DONE` in
its acceptance and `NG + 1` group steps, with `OUT = enc(ALPHA[ASEL], IN)`, which the host then reads. -/
def Obligations.EncodeRunsToItsResult : Prop :=
  ∀ (s : State) (a : Asel) (input : List Byte), presents s.unit (if a = .general then 0b0000#4 else 0b0010#4) input →
    fitsLen s.params input.length = true → fitsLen s.params (4 * ((input.length + 2) / 3)) = true →
    alen s.params a = 64 →
    ∃ t, unitTurns (1 + (input.length / 3 + 1)) s = .next t ∧ t.unit.state = .done ∧ t.unit.err = none ∧
      t.unit.outBuf = Memory.ofList (enc (alphabetFn s.params a) s.params.pad input) ∧
      t.unit.outLen = 4 * ((input.length + 2) / 3) ∧
      readResult t.unit = some (enc (alphabetFn s.params a) s.params.pad input) ∧
      t.lut0 = s.lut0 ∧ t.lut1 = s.lut1 ∧ t.params = s.params ∧ t.others = s.others

/-! ## The decoder -/

/-- 60_exceptions.md R126 and 42_decoder.md R90, DEC.LEN: it completes in every state; `BadFormat` exactly when
`IN_LEN mod 4` is not 0, whatever `IN` holds; otherwise `NG` is `IN_LEN / 4` and nothing else changes. -/
def Obligations.LengthCheck : Prop :=
  ∀ (s : State) (m : Memory Byte),
    (s.unit.inLen % 4 ≠ 0 → ∃ t, exec .decLen (s.withUnit { s.unit with inBuf := m }) = .next t ∧
      t.unit.state = .fail ∧ t.unit.err = some .badFormat ∧
      t = { s with
        unit := { s.unit with
          inBuf := m, err := t.unit.err, state := t.unit.state, outBuf := t.unit.outBuf, outLen := t.unit.outLen }
        freeCtr := t.freeCtr }) ∧
    (s.unit.inLen % 4 = 0 → exec .decLen (s.withUnit { s.unit with inBuf := m }) =
      .next { s with unit := { s.unit with inBuf := m, ng := s.unit.inLen / 4, phase := .groups } })

/-- 42_decoder.md R91, DEC.FETCH: with the group's four cells below `IN_LEN` it completes, and only `K0` to `K3` change. -/
def Obligations.TextGroupIsFetched : Prop :=
  ∀ (s : State) (c0 c1 c2 c3 : Byte), 4 * s.unit.gi + 3 < s.unit.inLen →
    Memory.read s.unit.inBuf (4 * s.unit.gi) = some c0 → Memory.read s.unit.inBuf (4 * s.unit.gi + 1) = some c1 →
    Memory.read s.unit.inBuf (4 * s.unit.gi + 2) = some c2 → Memory.read s.unit.inBuf (4 * s.unit.gi + 3) = some c3 →
    exec .decFetch s = .next { s with unit := { s.unit with k0 := c0, k1 := c1, k2 := c2, k3 := c3 } }

/-- 42_decoder.md R92, 30_encoding.md R57, DEC.LOOKUP: with a built table of 64 characters it completes for every four
bytes, `Ek` is the entry at the index `Kk` and `Vk` its `VAL`, and nothing else changes. -/
def Obligations.TextGroupIsLookedUp : Prop :=
  ∀ (s : State) (e0 e1 e2 e3 : Byte), alen s.params s.unit.asel = 64 →
    (∀ c : Byte, Memory.read (s.lut s.unit.asel) c.toNat = some (tableFn s.params s.unit.asel c)) →
    Entry.layout (tableFn s.params s.unit.asel s.unit.k0) = some e0 →
    Entry.layout (tableFn s.params s.unit.asel s.unit.k1) = some e1 →
    Entry.layout (tableFn s.params s.unit.asel s.unit.k2) = some e2 →
    Entry.layout (tableFn s.params s.unit.asel s.unit.k3) = some e3 →
    exec .decLookup s = .next { s with unit := { s.unit with
      e0 := e0, e1 := e1, e2 := e2, e3 := e3
      v0 := e0.extractLsb' 0 6, v1 := e1.extractLsb' 0 6, v2 := e2.extractLsb' 0 6, v3 := e3.extractLsb' 0 6 } }

/-- 42_decoder.md R93, DEC.CLASSIFY: it completes in every state and only `GCW` changes, to the flags of the entries. -/
def Obligations.TextGroupIsClassified : Prop :=
  ∀ s : State, ∃ g, exec .decClassify s = .next { s with unit := { s.unit with gcw := g } } ∧
    g.getLsbD 7 = s.unit.e0.getLsbD 7 ∧ g.getLsbD 6 = s.unit.e1.getLsbD 7 ∧ g.getLsbD 5 = s.unit.e2.getLsbD 7 ∧
    g.getLsbD 4 = s.unit.e3.getLsbD 7 ∧ g.getLsbD 3 = s.unit.e0.getLsbD 6 ∧ g.getLsbD 2 = s.unit.e1.getLsbD 6 ∧
    g.getLsbD 1 = s.unit.e2.getLsbD 6 ∧ g.getLsbD 0 = s.unit.e3.getLsbD 6

/-- 42_decoder.md R94, DEC.FULL: it completes in every state, appends the three bytes of the four sextets (as the
document's shifts cut to 8 bits), advances `GI`, and changes nothing else. -/
def Obligations.FullTextGroupIsDecoded : Prop :=
  ∀ s : State,
    let z0 : Byte := ((s.unit.v0.setWidth 16 <<< 2) ||| (s.unit.v1.setWidth 16 >>> 4)).setWidth 8
    let z1 : Byte := ((s.unit.v1.setWidth 16 <<< 4) ||| (s.unit.v2.setWidth 16 >>> 2)).setWidth 8
    let z2 : Byte := ((s.unit.v2.setWidth 16 <<< 6) ||| s.unit.v3.setWidth 16).setWidth 8
    ∃ t, exec .decFull s = .next t ∧ appended s.unit t.unit [z0, z1, z2] ∧
      t = { s with unit := { s.unit with
        y0 := z0, y1 := z1, y2 := z2, gi := s.unit.gi + 1, outBuf := t.unit.outBuf, outLen := t.unit.outLen } }

/-- 42_decoder.md R95, R96, R101, R102, DEC.TAIL2 and DEC.TAIL1: under `IGNORE`, or when the padded group is the last,
they complete with two bytes or one appended and `STATE = DONE`; `GI` is not advanced and nothing else changes. -/
def Obligations.PaddedGroupsAreDecoded : Prop :=
  ∀ s : State, (s.params.trail = .ignore ∨ s.unit.ng ≤ s.unit.gi + 1) →
    let z0 : Byte := ((s.unit.v0.setWidth 16 <<< 2) ||| (s.unit.v1.setWidth 16 >>> 4)).setWidth 8
    let z1 : Byte := ((s.unit.v1.setWidth 16 <<< 4) ||| (s.unit.v2.setWidth 16 >>> 2)).setWidth 8
    (∃ t, exec .decTail2 s = .next t ∧ appended s.unit t.unit [z0, z1] ∧
      t = { s with unit := { s.unit with
        y0 := z0, y1 := z1, state := .done, outBuf := t.unit.outBuf, outLen := t.unit.outLen } }) ∧
    (∃ t, exec .decTail1 s = .next t ∧ appended s.unit t.unit [z0] ∧
      t = { s with unit := { s.unit with
        y0 := z0, state := .done, outBuf := t.unit.outBuf, outLen := t.unit.outLen } })

/-- 30_encoding.md R65: the low four bits of `V1` in a two-pad group and the low two bits of `V2` in a one-pad group are
not used: how the operation ends does not depend on them, nor, where it ends in `DONE`, what it has appended (in `FAIL`
nothing is said of `OUT` and `OUT_LEN`, 60_exceptions.md R133). -/
def Obligations.UnusedTailBitsAreIgnored : Prop :=
  ∀ (s t t' : State) (w1 w2 w3 : Sextet),
    (w1.extractLsb' 4 2 = s.unit.v1.extractLsb' 4 2 → exec .decTail1 s = .next t →
      exec .decTail1 (s.withUnit { s.unit with v1 := w1, v2 := w2, v3 := w3 }) = .next t' →
      t'.unit.state = t.unit.state ∧ t'.unit.err = t.unit.err ∧
      (t.unit.state = .done → t'.unit.outBuf = t.unit.outBuf ∧ t'.unit.outLen = t.unit.outLen)) ∧
    (w2.extractLsb' 2 4 = s.unit.v2.extractLsb' 2 4 → exec .decTail2 s = .next t →
      exec .decTail2 (s.withUnit { s.unit with v2 := w2, v3 := w3 }) = .next t' →
      t'.unit.state = t.unit.state ∧ t'.unit.err = t.unit.err ∧
      (t.unit.state = .done → t'.unit.outBuf = t.unit.outBuf ∧ t'.unit.outLen = t.unit.outLen))

/-- 42_decoder.md R102 (log 3, 18): under `TRAIL_POLICY = REJECT` a padded group with groups after it raises `BadPadding`:
`ERR` and `STATE` are written, `Y0` and `Y1` by the group's own action, nothing else but `OUT` and `OUT_LEN` (of which
nothing is said, 60_exceptions.md R133) and the model's own counter of free values. -/
def Obligations.TrailingGroupsAreRejected : Prop :=
  ∀ (s : State) (i : Instr), (i = .decTail2 ∨ i = .decTail1 ∨ i = .decTerm ∨ i = .decTrail) → s.params.trail = .reject →
    s.unit.gi + 1 < s.unit.ng →
    let z0 : Byte := ((s.unit.v0.setWidth 16 <<< 2) ||| (s.unit.v1.setWidth 16 >>> 4)).setWidth 8
    let z1 : Byte := ((s.unit.v1.setWidth 16 <<< 4) ||| (s.unit.v2.setWidth 16 >>> 2)).setWidth 8
    ∃ t, exec i s = .next t ∧ t.unit.state = .fail ∧ t.unit.err = some .badPadding ∧
      t = { s with
        unit := { s.unit with
          err := t.unit.err, state := t.unit.state, outBuf := t.unit.outBuf, outLen := t.unit.outLen
          y0 := if i = .decTail2 ∨ i = .decTail1 then z0 else s.unit.y0
          y1 := if i = .decTail2 then z1 else s.unit.y1 }
        freeCtr := t.freeCtr }

/-- 42_decoder.md R101, R102, R103: DEC.END completes in every state; DEC.TERM under `IGNORE` or at the last group, and
DEC.TRAIL at the last group, complete; each sets `STATE` to `DONE` and changes nothing else. DEC.TRAIL with groups left
raises `BadPadding`. -/
def Obligations.EndOfADecode : Prop :=
  ∀ s : State,
    exec .decEnd s = .next { s with unit := { s.unit with state := .done } } ∧
    (s.params.trail = .ignore ∨ s.unit.ng ≤ s.unit.gi + 1 →
      exec .decTerm s = .next { s with unit := { s.unit with state := .done } }) ∧
    (s.unit.ng ≤ s.unit.gi + 1 → exec .decTrail s = .next { s with unit := { s.unit with state := .done } }) ∧
    (s.unit.gi + 1 < s.unit.ng → ∃ t, exec .decTrail s = .next t ∧ t.unit.state = .fail ∧ t.unit.err = some .badPadding)

/-- 60_exceptions.md R131 with 42_decoder.md R97 to R100: each bad class completes by raising its error: `ERR` and
`STATE` are written, nothing else but `OUT` and `OUT_LEN` (of which nothing is said, R133) and the model's own counter of
free values; a command presented then is accepted. -/
def Obligations.BadGroupsRaise : Prop :=
  ∀ (s : State) (i : Instr) (e : DecodeError),
    (e = .badCharacter ∧ ((∃ r, i = .decBadcharP0 r) ∨ (∃ r, i = .decBadcharP1 r) ∨ (∃ r, i = .decBadcharP2 r) ∨
        ∃ r, i = .decBadcharP3 r)) ∨
      (e = .badPadding ∧ ((∃ r, i = .decBadpadP0 r) ∨ (∃ r, i = .decBadpadP1 r) ∨ i = .decBadpadP2)) →
    ∃ t, exec i s = .next t ∧ t.unit.err = some e ∧ t.unit.state = .fail ∧
      t = { s with
        unit := { s.unit with err := some e, state := .fail, outBuf := t.unit.outBuf, outLen := t.unit.outLen }
        freeCtr := t.freeCtr } ∧
      (∀ a, fitsLen t.params t.unit.portInLen = true → fitsLen t.params (encodedLen t.unit.portInLen) = true →
        ∃ v, exec (.encode a) t = .next v ∧ v.unit.state = .busy ∧ v.unit.err = none)

/-- 60_exceptions.md R130, of the whole-buffer function: a length that is not a multiple of 4 gives `BadFormat` before
anything else. Otherwise, after full groups, the first group that is not full decides: an `Invalid` in it gives
`BadCharacter` whatever its padding and whatever follows; an illegal shape gives `BadPadding` whatever follows; a legal
shape gives `BadPadding` under `REJECT` if groups follow, and else ends the decode with its bytes, so that no error of a
group after it is reported. -/
def Obligations.FirstFailingGroupDecides : Prop :=
  ∀ (table : Byte → Entry) (policy : TrailPolicy),
    (∀ text : List Byte, text.length % 4 ≠ 0 → dec table policy text = .error .badFormat) ∧
    (∀ (before rest : List Byte) (c0 c1 c2 c3 : Byte),
      before.length % 4 = 0 → (∀ c ∈ before, ∃ v, table c = .value v) → rest.length % 4 = 0 →
      ((table c0 = .invalid ∨ table c1 = .invalid ∨ table c2 = .invalid ∨ table c3 = .invalid) →
        dec table policy (before ++ [c0, c1, c2, c3] ++ rest) = .error .badCharacter) ∧
      (classify (table c0) (table c1) (table c2) (table c3) = .badPad →
        dec table policy (before ++ [c0, c1, c2, c3] ++ rest) = .error .badPadding) ∧
      (rest ≠ [] → policy = .reject →
        (classify (table c0) (table c1) (table c2) (table c3) = .tail2 ∨
          classify (table c0) (table c1) (table c2) (table c3) = .tail1) →
        dec table policy (before ++ [c0, c1, c2, c3] ++ rest) = .error .badPadding) ∧
      (∀ v0 v1 : Byte, policy = .ignore ∨ rest = [] → table c0 = .value v0 → table c1 = .value v1 → table c3 = .padding →
        ∃ bytes, dec table policy before = .ok bytes ∧
          (∀ v2 : Byte, table c2 = .value v2 → dec table policy (before ++ [c0, c1, c2, c3] ++ rest) =
            .ok (bytes ++ [outByte0 (v0.setWidth 6) (v1.setWidth 6), outByte1 (v1.setWidth 6) (v2.setWidth 6)])) ∧
          (table c2 = .padding → dec table policy (before ++ [c0, c1, c2, c3] ++ rest) =
            .ok (bytes ++ [outByte0 (v0.setWidth 6) (v1.setWidth 6)]))))

/-- 42_decoder.md R89, R105, R108 and 70_reset_and_hazards.md R154: a DECODE on the port of a free unit, its table built,
ends after its acceptance and at most `1 + NG` further steps: in `DONE` with the bytes of `dec`, which the host then
reads, or in `FAIL` with `dec`'s error. -/
def Obligations.DecodeRunsToItsResult : Prop :=
  ∀ (s : State) (a : Asel) (input : List Byte), presents s.unit (if a = .general then 0b0001#4 else 0b0011#4) input →
    fitsLen s.params input.length = true → fitsLen s.params (3 * input.length / 4) = true →
    alen s.params a = 64 → s.lutValid a = true →
    (∀ c : Byte, Memory.read (s.lut a) c.toNat = some (tableFn s.params a c)) →
    ∃ n t, n ≤ 1 + (1 + input.length / 4) ∧ unitTurns n s = .next t ∧
      match dec (tableFn s.params a) s.params.trail input with
      | .ok bytes => t.unit.state = .done ∧ t.unit.err = none ∧ t.unit.outBuf = Memory.ofList bytes ∧
          t.unit.outLen = bytes.length ∧ readResult t.unit = some bytes
      | .error e => t.unit.state = .fail ∧ t.unit.err = some e ∧ readResult t.unit = none

/-- 42_decoder.md R104: the step that checks the length of the empty input of a DECODE also ends it, in `DONE` with
nothing in `OUT`. -/
def Obligations.EmptyInputDecodes : Prop :=
  ∀ (s : State), s.unit.state = .busy → cmdOp s.unit.cmd = 1#1 → s.unit.phase = .lengthCheck → s.unit.inLen = 0 →
    s.unit.gi = 0 → s.unit.outLen = 0 →
    ∃ t, unitTurn s = .next t ∧ t.unit.ng = 0 ∧ t.unit.outLen = 0 ∧ t.unit.outBuf = s.unit.outBuf ∧ t.unit.state = .done

/-- 42_decoder.md R107: for 64 distinct characters none of which is `PAD`, decoding what was encoded gives the bytes
back, under both policies; both alphabets of this block are such. -/
def Obligations.RoundTrip : Prop :=
  (∀ (p : Params) (a : Asel) (policy : TrailPolicy) (input : List Byte), alphabetWellFormed (alphaOf p a) p.pad →
    dec (tableFn p a) policy (enc (alphabetFn p a) p.pad input) = .ok input) ∧
  (∀ a : Asel, alphabetWellFormed (alphaOf blockParams a) blockParams.pad)

/-! ## The whole machine -/

/-- 20_memory.md R36, R48 and 10_state.md R22: a step that is not a reset leaves every valid table as it is and valid, and
a table becomes valid only with the content BUILD gives it. -/
def Obligations.ValidTablesStay : Prop :=
  ∀ (s t : State) (a : Asel), step s = .next t → (∀ es, s.events ≠ .reset :: es) →
    (s.lutValid a = true → t.lut a = s.lut a ∧ t.lutValid a = true) ∧
    (s.lutValid a = false → t.lutValid a = true →
      t.lut a = buildTable (alphaOf s.params a) s.params.pad)

/-- 00_scope.md R5, R7 and 10_state.md R15: no step changes a parameter: the alphabets, `PAD`, the policy, `LEN_W`. -/
def Obligations.StepKeepsTheParameters : Prop :=
  ∀ s t : State, step s = .next t → t.params = s.params

/-- 60_exceptions.md R139: no operation touches another unit, the parameters or what the agents will do next; no operation
but BUILD touches a table; none touches what the host put on the port but to take the command off it. -/
def Obligations.OperationsActOnOneUnit : Prop :=
  ∀ (i : Instr) (s t : State), exec i s = .next t →
    t.others = s.others ∧ t.params = s.params ∧ t.events = s.events ∧
    t.unit.portCmd = s.unit.portCmd ∧ t.unit.portInLen = s.unit.portInLen ∧ t.unit.portIn = s.unit.portIn ∧
    (t.unit.cmdValid = true → s.unit.cmdValid = true) ∧
    ((∀ a, i ≠ .build a) → t.lut0 = s.lut0 ∧ t.lut1 = s.lut1 ∧ t.lutValid0 = s.lutValid0 ∧ t.lutValid1 = s.lutValid1)

/-- 20_memory.md R33: every memory of the machine stays in canonical form (the form is the model's own, log 6, 7). -/
def Obligations.MemoryStaysCanonical : Prop :=
  ∀ s t : State, memoriesWf s = true → step s = .next t → memoriesWf t = true

/-- 10_state.md R27: in every unit `ERR` is 0 exactly when `STATE` is not `FAIL`, and every step keeps it so. -/
def Obligations.StatusStaysConsistent : Prop :=
  ∀ s t : State, (∀ u ∈ unitsOf s, statusOk u) → step s = .next t → ∀ u ∈ unitsOf t, statusOk u

/-- 10_state.md R25, 41_encoder.md R84, 42_decoder.md R106: the sequencer of every unit stays consistent: `NG`, `REM`, `GI`
and `OUT_LEN` of a running command, and the output length of a finished one. -/
def Obligations.SequencerStaysConsistent : Prop :=
  ∀ s t : State, (∀ u ∈ unitsOf s, sequencerOk u) → step s = .next t → ∀ u ∈ unitsOf t, sequencerOk u

/-- 00_scope.md R14, 41_encoder.md R88, 42_decoder.md R108: the step form and the whole-buffer functions agree, as an
invariant of every step: the tables are those of `build`, `OUT` of an ENCODE is `enc`, and a DECODE ends with the bytes or
the error of `dec`. -/
def Obligations.CodecStaysCorrect : Prop :=
  ∀ s t : State, codecCorrect s → step s = .next t → codecCorrect t

/-- The state after reset meets every invariant stated here. -/
def Obligations.ResetMeetsTheInvariants : Prop :=
  memoriesWf State.reset = true ∧ (∀ u ∈ unitsOf State.reset, statusOk u) ∧
  (∀ u ∈ unitsOf State.reset, sequencerOk u) ∧ codecCorrect State.reset

/-- 70_reset_and_hazards.md R144: with no event to come and no unit able to move, two steps leave both tables valid, as
`build(ALPHA[a], PAD)`, whatever was valid before. -/
def Obligations.TablesAreBuiltAfterReset : Prop :=
  ∀ s : State, s.events = [] → (∀ u ∈ unitsOf s, u.state ≠ .busy ∧ u.cmdValid = false) →
    (∀ a, 1 ≤ alen s.params a ∧ alen s.params a ≤ 255) → tablesBuilt s →
    ∃ t, Sys2Proof.core.run 2 s = .next t ∧ t.lutValid0 = true ∧ t.lutValid1 = true ∧ tablesBuilt t ∧
      t.unit = s.unit ∧ t.others = s.others

/-- 43_host_interface_and_variants.md R122: in `DONE` the result stays as it is under every operation but the acceptance
of the next command: a step of the unit, with no command presented, and a step of the Table Builder. -/
def Obligations.ResultStaysUntilTheNextCommand : Prop :=
  ∀ (s t : State), s.unit.state = .done → s.unit.cmdValid = false → step s = .next t →
    (∀ es, s.events ≠ .reset :: es) → (∀ es, s.events ≠ .nextUnit :: es) →
    (s.events = [] → ∀ u ∈ s.others, u.state ≠ .busy ∧ u.cmdValid = false) →
    readResult t.unit = readResult s.unit ∧ t.unit.outLen = s.unit.outLen ∧ t.unit.outBuf = s.unit.outBuf ∧
      t.unit.state = .done

/-- 20_memory.md R49, 70_reset_and_hazards.md R148, R149: outside `DONE` the host gets no result, and in `DONE` it gets
the first `OUT_LEN` bytes of `OUT`. 43_host_interface_and_variants.md R118, R120: reading the status gives `cmd_ready`, the
codes of `STATE` (10_state.md R27) and `ERR` (R27, 60_exceptions.md R125), `OUT_LEN`, and
`LUT_VALID[1] ++ LUT_VALID[0]`, of every unit in every state. -/
def Obligations.HostReadsOnlyInDone : Prop :=
  (∀ u : UnitState, u.state ≠ .done → readResult u = none) ∧
  (∀ (u : UnitState) (bytes : List Byte), u.state = .done → u.outBuf = Memory.ofList bytes → u.outLen = bytes.length →
    readResult u = some bytes) ∧
  (Status.idle.code = 0#2 ∧ Status.busy.code = 1#2 ∧ Status.done.code = 2#2 ∧ Status.fail.code = 3#2) ∧
  (errCode none = 0#2 ∧ errCode (some .badFormat) = 1#2 ∧ errCode (some .badCharacter) = 2#2 ∧
    errCode (some .badPadding) = 3#2) ∧
  (∀ (s : State) (u : UnitState),
    (readStatus s u).cmdReady = cmdReady s u ∧ (readStatus s u).state = u.state.code ∧
    (readStatus s u).err = errCode u.err ∧ (readStatus s u).outLen = u.outLen ∧
    (readStatus s u).lutValid.getLsbD 0 = s.lutValid0 ∧ (readStatus s u).lutValid.getLsbD 1 = s.lutValid1)

/-- 10_state.md R25: a step of a running command that leaves it running advances `GI` by exactly 1, but for the length
check, and `GI` never exceeds `NG`. -/
def Obligations.GroupIndexAdvancesByOne : Prop :=
  ∀ s t : State, sequencerOk s.unit → s.unit.state = .busy → unitTurn s = .next t → t.unit.state = .busy →
    (cmdOp s.unit.cmd = 1#1 ∧ s.unit.phase = .lengthCheck ∧ t.unit.gi = s.unit.gi ∧ t.unit.gi < t.unit.ng) ∨
    (t.unit.gi = s.unit.gi + 1 ∧ t.unit.gi ≤ t.unit.ng ∧ t.unit.ng = s.unit.ng)

/-- 43_host_interface_and_variants.md R118, R119, R123: the host's moves, the Table Builder's steps and the change of focus.
A command is presented with its whole buffer when the port is free; a builder whose table is valid has no further step; the
first of the other units comes into focus without any unit changing, by an event, or by itself when no event is to come,
the unit in focus cannot move and another can (the moves and the schedule are the model's, log 14, 15, 16). -/
def Obligations.HostAndBuilderMoves : Prop :=
  ∀ (s : State) (es : List Event),
    (∀ (w : BitVec 4) (buffer : List Byte), s.events = .present w buffer :: es → s.unit.cmdValid = false →
      step s = .next { s with events := es, unit := { s.unit with
        cmdValid := true, portCmd := w, portInLen := buffer.length, portIn := Memory.ofList buffer } }) ∧
    (∀ a, s.events = .builderTurn a :: es → s.lutValid a = true → step s = .next { s with events := es }) ∧
    (∀ a, s.events = .builderTurn a :: es → s.lutValid a = false →
      step s = exec (.build a) { s with events := es }) ∧
    (∀ v vs, s.events = .nextUnit :: es → s.others = v :: vs →
      step s = .next { s with events := es, unit := v, others := vs ++ [s.unit] }) ∧
    (s.events = .nextUnit :: es → s.others = [] → step s = .next { s with events := es }) ∧
    (∀ v vs, s.events = [] → s.others = v :: vs → s.unit.canMove s = false → (∃ u ∈ s.others, u.canMove s = true) →
      step s = .next { s with unit := v, others := vs ++ [s.unit] })
end

