-- ==== Sys2Proof/Laws/Memory.lean ====
section
/-! SUPPORT. The laws of an address space: a read after a write, the canonical form, and buffers. -/

namespace Sys2Proof.Machine

variable {α : Type}

/-! ## Read after write -/

/-- A read of the cell just written gives the value written. -/
@[simp] theorem read_write_same (m : Memory α) (i : Nat) (v : α) : Memory.read (Memory.write m i v) i = some v := by
  induction m with
  | nil => simp [Memory.write, Memory.read]
  | cons c m ih =>
    obtain ⟨j, w⟩ := c
    simp only [Memory.write]
    split
    · simp [Memory.read]
    · split
      · simp [Memory.read]
      · simp [Memory.read, *]

/-- A write leaves every other cell alone. -/
theorem read_write_other (m : Memory α) {i k : Nat} (v : α) (h : k ≠ i) :
    Memory.read (Memory.write m i v) k = Memory.read m k := by
  induction m with
  | nil => simp [Memory.write, Memory.read, h]
  | cons c m ih =>
    obtain ⟨j, w⟩ := c
    simp only [Memory.write]
    split
    · simp [Memory.read, h]
    · split
      · next h2 => subst h2; simp [Memory.read, h]
      · simp only [Memory.read]; split
        · rfl
        · exact ih

/-- A write seen through a read. -/
theorem read_write (m : Memory α) (i k : Nat) (v : α) :
    Memory.read (Memory.write m i v) k = if k = i then some v else Memory.read m k := by
  split
  · next h => subst h; exact read_write_same m k v
  · next h => exact read_write_other m v h

/-- Successive writes leave every cell outside them alone. -/
theorem read_writeFrom_other (vs : List α) : ∀ (m : Memory α) (i k : Nat), k < i ∨ i + vs.length ≤ k →
    Memory.read (Memory.writeFrom m i vs) k = Memory.read m k := by
  induction vs with
  | nil => intros; rfl
  | cons v vs ih =>
    intro m i k h
    simp only [List.length_cons] at h
    rw [Memory.writeFrom, ih _ _ _ (by omega), read_write_other _ _ (by omega)]

/-- Successive writes put their values into successive cells. -/
theorem read_writeFrom_at (vs : List α) : ∀ (m : Memory α) (i k : Nat) (h : k < vs.length),
    Memory.read (Memory.writeFrom m i vs) (i + k) = some vs[k] := by
  induction vs with
  | nil => intro _ _ _ h; simp at h
  | cons v vs ih =>
    intro m i k h
    rw [Memory.writeFrom]
    cases k with
    | zero => rw [read_writeFrom_other _ _ _ _ (by omega)]; simp
    | succ k => rw [show i + (k + 1) = i + 1 + k by omega, ih _ _ k (by simpa using h)]; simp

/-! ## The canonical form -/

/-- A bound may be lowered. -/
theorem wfAbove_mono {m : Memory α} {lo lo' : Nat} (h : Memory.wfAbove m lo) (hl : lo' ≤ lo) : Memory.wfAbove m lo' := by
  cases m with
  | nil => rfl
  | cons c m =>
    simp only [Memory.wfAbove, Bool.and_eq_true, decide_eq_true_eq] at h ⊢
    exact ⟨by omega, h.2⟩

/-- A write above a bound stays above it. -/
theorem wfAbove_write {m : Memory α} {lo : Nat} (i : Nat) (v : α) (h : Memory.wfAbove m lo) (hi : lo < i) :
    Memory.wfAbove (Memory.write m i v) lo := by
  induction m generalizing lo with
  | nil => simp [Memory.write, Memory.wfAbove, hi]
  | cons c m ih =>
    obtain ⟨j, w⟩ := c
    simp only [Memory.wfAbove, Bool.and_eq_true, decide_eq_true_eq] at h
    simp only [Memory.write]
    split
    · simp [Memory.wfAbove, *]
    · split
      · next h2 => subst h2; simp [Memory.wfAbove, *]
      · simp only [Memory.wfAbove, Bool.and_eq_true, decide_eq_true_eq]
        exact ⟨h.1, ih h.2 (by omega)⟩

/-- A write keeps the canonical form. -/
@[simp] theorem wf_write {m : Memory α} (i : Nat) (v : α) (h : Memory.wf m) : Memory.wf (Memory.write m i v) := by
  cases m with
  | nil => rfl
  | cons c m =>
    obtain ⟨j, w⟩ := c
    simp only [Memory.wf] at h
    simp only [Memory.write]
    split
    · simp [Memory.wf, Memory.wfAbove, *]
    · split
      · next h2 => subst h2; exact h
      · exact wfAbove_write i v h (by omega)

/-- Successive writes keep the canonical form. -/
@[simp] theorem wf_writeFrom {m : Memory α} (i : Nat) (vs : List α) (h : Memory.wf m) :
    Memory.wf (Memory.writeFrom m i vs) := by
  induction vs generalizing m i with
  | nil => exact h
  | cons v vs ih => exact ih _ (wf_write _ _ h)

/-- A buffer is in canonical form. -/
theorem wfAbove_ofListFrom (vs : List α) : ∀ {i lo : Nat}, lo < i → Memory.wfAbove (Memory.ofListFrom i vs) lo := by
  induction vs with
  | nil => intros; rfl
  | cons v vs ih =>
    intro i lo h
    simp only [Memory.ofListFrom, Memory.wfAbove, Bool.and_eq_true, decide_eq_true_eq]
    exact ⟨h, ih (by omega)⟩

/-- A buffer is in canonical form. -/
@[simp] theorem wf_ofList (vs : List α) : Memory.wf (Memory.ofList vs) := by
  cases vs with
  | nil => rfl
  | cons v vs => exact wfAbove_ofListFrom vs (by omega)

/-- The table BUILD makes is in canonical form. -/
theorem wf_writeAlphabet (cs : List Byte) : ∀ (i : Nat) {t : Memory Entry}, Memory.wf t → Memory.wf (writeAlphabet i cs t) := by
  induction cs with
  | nil => intro _ _ h; exact h
  | cons c cs ih => intro i t h; exact ih _ (wf_write _ _ h)

/-- The table BUILD makes is in canonical form. -/
@[simp] theorem wf_buildTable (cs : List Byte) (pad : Byte) : Memory.wf (buildTable cs pad) :=
  wf_writeAlphabet cs 0 (wf_write _ _ (wf_ofList _))

/-! ## Buffers -/

/-- The values of a buffer are its elements. -/
@[simp] theorem values_ofListFrom (vs : List α) : ∀ i, Memory.values (Memory.ofListFrom i vs) = vs := by
  induction vs with
  | nil => intro; rfl
  | cons v vs ih => intro i; simpa [Memory.ofListFrom, Memory.values] using ih (i + 1)

/-- The values of a buffer are its elements. -/
@[simp] theorem values_ofList (vs : List α) : Memory.values (Memory.ofList vs) = vs := values_ofListFrom vs 0

/-- The number of cells of a buffer. -/
@[simp] theorem length_ofListFrom (vs : List α) : ∀ i, (Memory.ofListFrom i vs).length = vs.length := by
  induction vs with
  | nil => intro; rfl
  | cons v vs ih => intro i; simp [Memory.ofListFrom, ih]

/-- The number of cells of a buffer. -/
@[simp] theorem length_ofList (vs : List α) : (Memory.ofList vs).length = vs.length := length_ofListFrom vs 0

/-- A cell of a buffer that starts at an index. -/
theorem read_ofListFrom (vs : List α) : ∀ (i k : Nat), i ≤ k → Memory.read (Memory.ofListFrom i vs) k = vs[k - i]? := by
  induction vs with
  | nil => intros; simp [Memory.ofListFrom, Memory.read]
  | cons v vs ih =>
    intro i k h
    simp only [Memory.ofListFrom, Memory.read]
    split
    · next h2 => subst h2; simp
    · rw [ih _ _ (by omega), show k - i = (k - (i + 1)) + 1 by omega]; simp

/-- A cell of a buffer. -/
@[simp] theorem read_ofList (vs : List α) (k : Nat) : Memory.read (Memory.ofList vs) k = vs[k]? := by
  rw [Memory.ofList, read_ofListFrom vs 0 k (by omega), Nat.sub_zero]

/-- Writing just beyond the end of a buffer appends. -/
theorem write_end_ofListFrom (vs : List α) (v : α) : ∀ (i k : Nat), k = i + vs.length →
    Memory.write (Memory.ofListFrom i vs) k v = Memory.ofListFrom i (vs ++ [v]) := by
  induction vs with
  | nil => intro i k h; simp [Memory.ofListFrom, Memory.write, h]
  | cons w vs ih =>
    intro i k h
    simp only [List.length_cons] at h
    simp only [Memory.ofListFrom, Memory.write, List.cons_append]
    rw [if_neg (by omega), if_neg (by omega), ih _ _ (by omega)]

/-- `OutAppend` at the end of a buffer appends to it (20_memory.md R35). -/
theorem writeFrom_ofList (ws vs : List α) :
    Memory.writeFrom (Memory.ofList vs) vs.length ws = Memory.ofList (vs ++ ws) := by
  induction ws generalizing vs with
  | nil => simp [Memory.writeFrom]
  | cons w ws ih =>
    rw [Memory.writeFrom, Memory.ofList, write_end_ofListFrom vs w 0 _ (by omega), ← Memory.ofList]
    simpa using ih (vs ++ [w])

/-- All cells of a buffer, read in order. -/
theorem readFrom_ofListFrom (vs : List α) : ∀ (m : Memory α) (i : Nat),
    (∀ k, k < vs.length → Memory.read m (i + k) = vs[k]?) → Memory.readFrom m i vs.length = some vs := by
  induction vs with
  | nil => intros; rfl
  | cons v vs ih =>
    intro m i h
    have h0 := h 0 (by simp)
    simp only [Nat.add_zero, List.getElem?_cons_zero] at h0
    have hs := ih m (i + 1) fun k hk => by
      have := h (k + 1) (by simpa using hk)
      rwa [show i + (k + 1) = i + 1 + k by omega, List.getElem?_cons_succ] at this
    simp [Memory.readFrom, h0, hs]

/-- The host reads a whole buffer back (43_host_interface_and_variants.md R122). -/
@[simp] theorem readFrom_ofList (vs : List α) : Memory.readFrom (Memory.ofList vs) 0 vs.length = some vs :=
  readFrom_ofListFrom vs _ 0 fun k _ => by simp

end Sys2Proof.Machine
end

