-- ==== Sys2Proof/Laws/State.lean ====
section
/-! SUPPORT. One equation per field for each update of a unit or of the machine, all true by rfl and all simp rules,
so that no proof unfolds a record update. A lemma named `_written` gives the fields an update writes, one named `_kept`
the fields it leaves alone; simp takes each conjunct as a rule of its own. -/

namespace Sys2Proof.Machine

/-! ## Updates of a unit -/

/-- What `OutAppend` writes. -/
@[simp] theorem outAppend_written (u : UnitState) (vs : List Byte) :
    (u.outAppend vs).outBuf = Memory.writeFrom u.outBuf u.outLen vs ∧
    (u.outAppend vs).outLen = u.outLen + vs.length :=
  ⟨rfl, rfl⟩

/-- What `OutAppend` leaves alone. -/
@[simp] theorem outAppend_kept (u : UnitState) (vs : List Byte) :
    (u.outAppend vs).b0 = u.b0 ∧ (u.outAppend vs).b1 = u.b1 ∧ (u.outAppend vs).b2 = u.b2 ∧
    (u.outAppend vs).cnt = u.cnt ∧ (u.outAppend vs).s0 = u.s0 ∧ (u.outAppend vs).s1 = u.s1 ∧
    (u.outAppend vs).s2 = u.s2 ∧ (u.outAppend vs).s3 = u.s3 ∧ (u.outAppend vs).q0 = u.q0 ∧
    (u.outAppend vs).q1 = u.q1 ∧ (u.outAppend vs).q2 = u.q2 ∧ (u.outAppend vs).q3 = u.q3 ∧
    (u.outAppend vs).k0 = u.k0 ∧ (u.outAppend vs).k1 = u.k1 ∧ (u.outAppend vs).k2 = u.k2 ∧
    (u.outAppend vs).k3 = u.k3 ∧ (u.outAppend vs).e0 = u.e0 ∧ (u.outAppend vs).e1 = u.e1 ∧
    (u.outAppend vs).e2 = u.e2 ∧ (u.outAppend vs).e3 = u.e3 ∧ (u.outAppend vs).v0 = u.v0 ∧
    (u.outAppend vs).v1 = u.v1 ∧ (u.outAppend vs).v2 = u.v2 ∧ (u.outAppend vs).v3 = u.v3 ∧
    (u.outAppend vs).gcw = u.gcw ∧ (u.outAppend vs).y0 = u.y0 ∧ (u.outAppend vs).y1 = u.y1 ∧
    (u.outAppend vs).y2 = u.y2 ∧ (u.outAppend vs).gi = u.gi ∧ (u.outAppend vs).ng = u.ng ∧
    (u.outAppend vs).rem = u.rem ∧ (u.outAppend vs).phase = u.phase ∧ (u.outAppend vs).cmd = u.cmd ∧
    (u.outAppend vs).inLen = u.inLen ∧ (u.outAppend vs).state = u.state ∧ (u.outAppend vs).err = u.err ∧
    (u.outAppend vs).inBuf = u.inBuf ∧ (u.outAppend vs).cmdValid = u.cmdValid ∧
    (u.outAppend vs).portCmd = u.portCmd ∧ (u.outAppend vs).portInLen = u.portInLen ∧
    (u.outAppend vs).portIn = u.portIn :=
  ⟨rfl, rfl, rfl, rfl, rfl, rfl, rfl, rfl, rfl, rfl, rfl, rfl, rfl, rfl, rfl, rfl, rfl, rfl, rfl, rfl, rfl, rfl,
    rfl, rfl, rfl, rfl, rfl, rfl, rfl, rfl, rfl, rfl, rfl, rfl, rfl, rfl, rfl, rfl, rfl, rfl, rfl⟩

/-- What `finish` writes. -/
@[simp] theorem finish_written (u : UnitState) :
    (u.finish).state = .done :=
  rfl

/-- What `finish` leaves alone. -/
@[simp] theorem finish_kept (u : UnitState) :
    (u.finish).b0 = u.b0 ∧ (u.finish).b1 = u.b1 ∧ (u.finish).b2 = u.b2 ∧ (u.finish).cnt = u.cnt ∧
    (u.finish).s0 = u.s0 ∧ (u.finish).s1 = u.s1 ∧ (u.finish).s2 = u.s2 ∧ (u.finish).s3 = u.s3 ∧
    (u.finish).q0 = u.q0 ∧ (u.finish).q1 = u.q1 ∧ (u.finish).q2 = u.q2 ∧ (u.finish).q3 = u.q3 ∧
    (u.finish).k0 = u.k0 ∧ (u.finish).k1 = u.k1 ∧ (u.finish).k2 = u.k2 ∧ (u.finish).k3 = u.k3 ∧
    (u.finish).e0 = u.e0 ∧ (u.finish).e1 = u.e1 ∧ (u.finish).e2 = u.e2 ∧ (u.finish).e3 = u.e3 ∧
    (u.finish).v0 = u.v0 ∧ (u.finish).v1 = u.v1 ∧ (u.finish).v2 = u.v2 ∧ (u.finish).v3 = u.v3 ∧
    (u.finish).gcw = u.gcw ∧ (u.finish).y0 = u.y0 ∧ (u.finish).y1 = u.y1 ∧ (u.finish).y2 = u.y2 ∧
    (u.finish).gi = u.gi ∧ (u.finish).ng = u.ng ∧ (u.finish).rem = u.rem ∧ (u.finish).phase = u.phase ∧
    (u.finish).cmd = u.cmd ∧ (u.finish).inLen = u.inLen ∧ (u.finish).err = u.err ∧ (u.finish).outLen = u.outLen ∧
    (u.finish).inBuf = u.inBuf ∧ (u.finish).outBuf = u.outBuf ∧ (u.finish).cmdValid = u.cmdValid ∧
    (u.finish).portCmd = u.portCmd ∧ (u.finish).portInLen = u.portInLen ∧ (u.finish).portIn = u.portIn :=
  ⟨rfl, rfl, rfl, rfl, rfl, rfl, rfl, rfl, rfl, rfl, rfl, rfl, rfl, rfl, rfl, rfl, rfl, rfl, rfl, rfl, rfl, rfl,
    rfl, rfl, rfl, rfl, rfl, rfl, rfl, rfl, rfl, rfl, rfl, rfl, rfl, rfl, rfl, rfl, rfl, rfl, rfl, rfl⟩

/-- What acceptance writes. -/
@[simp] theorem accept_written (u : UnitState) (w : BitVec 4) :
    (u.accept w).cmd = w ∧ (u.accept w).inLen = u.portInLen ∧ (u.accept w).inBuf = u.portIn ∧
    (u.accept w).state = .busy ∧ (u.accept w).err = none ∧ (u.accept w).outLen = 0 ∧ (u.accept w).outBuf = [] ∧
    (u.accept w).gi = 0 ∧ (u.accept w).cmdValid = false :=
  ⟨rfl, rfl, rfl, rfl, rfl, rfl, rfl, rfl, rfl⟩

/-- What acceptance leaves alone. -/
@[simp] theorem accept_kept (u : UnitState) (w : BitVec 4) :
    (u.accept w).b0 = u.b0 ∧ (u.accept w).b1 = u.b1 ∧ (u.accept w).b2 = u.b2 ∧ (u.accept w).cnt = u.cnt ∧
    (u.accept w).s0 = u.s0 ∧ (u.accept w).s1 = u.s1 ∧ (u.accept w).s2 = u.s2 ∧ (u.accept w).s3 = u.s3 ∧
    (u.accept w).q0 = u.q0 ∧ (u.accept w).q1 = u.q1 ∧ (u.accept w).q2 = u.q2 ∧ (u.accept w).q3 = u.q3 ∧
    (u.accept w).k0 = u.k0 ∧ (u.accept w).k1 = u.k1 ∧ (u.accept w).k2 = u.k2 ∧ (u.accept w).k3 = u.k3 ∧
    (u.accept w).e0 = u.e0 ∧ (u.accept w).e1 = u.e1 ∧ (u.accept w).e2 = u.e2 ∧ (u.accept w).e3 = u.e3 ∧
    (u.accept w).v0 = u.v0 ∧ (u.accept w).v1 = u.v1 ∧ (u.accept w).v2 = u.v2 ∧ (u.accept w).v3 = u.v3 ∧
    (u.accept w).gcw = u.gcw ∧ (u.accept w).y0 = u.y0 ∧ (u.accept w).y1 = u.y1 ∧ (u.accept w).y2 = u.y2 ∧
    (u.accept w).ng = u.ng ∧ (u.accept w).rem = u.rem ∧ (u.accept w).phase = u.phase ∧
    (u.accept w).portCmd = u.portCmd ∧ (u.accept w).portInLen = u.portInLen ∧ (u.accept w).portIn = u.portIn :=
  ⟨rfl, rfl, rfl, rfl, rfl, rfl, rfl, rfl, rfl, rfl, rfl, rfl, rfl, rfl, rfl, rfl, rfl, rfl, rfl, rfl, rfl, rfl,
    rfl, rfl, rfl, rfl, rfl, rfl, rfl, rfl, rfl, rfl, rfl, rfl⟩

/-- What acceptance of an ENCODE writes. -/
@[simp] theorem acceptEncode_written (u : UnitState) (w : BitVec 4) :
    (u.acceptEncode w).cmd = w ∧ (u.acceptEncode w).inLen = u.portInLen ∧ (u.acceptEncode w).inBuf = u.portIn ∧
    (u.acceptEncode w).state = .busy ∧ (u.acceptEncode w).err = none ∧ (u.acceptEncode w).outLen = 0 ∧
    (u.acceptEncode w).outBuf = [] ∧ (u.acceptEncode w).gi = 0 ∧ (u.acceptEncode w).cmdValid = false ∧
    (u.acceptEncode w).ng = u.portInLen / 3 ∧ (u.acceptEncode w).rem = BitVec.ofNat 2 (u.portInLen % 3) ∧
    (u.acceptEncode w).phase = .groups :=
  ⟨rfl, rfl, rfl, rfl, rfl, rfl, rfl, rfl, rfl, rfl, rfl, rfl⟩

/-- What acceptance of an ENCODE leaves alone. -/
@[simp] theorem acceptEncode_kept (u : UnitState) (w : BitVec 4) :
    (u.acceptEncode w).b0 = u.b0 ∧ (u.acceptEncode w).b1 = u.b1 ∧ (u.acceptEncode w).b2 = u.b2 ∧
    (u.acceptEncode w).cnt = u.cnt ∧ (u.acceptEncode w).s0 = u.s0 ∧ (u.acceptEncode w).s1 = u.s1 ∧
    (u.acceptEncode w).s2 = u.s2 ∧ (u.acceptEncode w).s3 = u.s3 ∧ (u.acceptEncode w).q0 = u.q0 ∧
    (u.acceptEncode w).q1 = u.q1 ∧ (u.acceptEncode w).q2 = u.q2 ∧ (u.acceptEncode w).q3 = u.q3 ∧
    (u.acceptEncode w).k0 = u.k0 ∧ (u.acceptEncode w).k1 = u.k1 ∧ (u.acceptEncode w).k2 = u.k2 ∧
    (u.acceptEncode w).k3 = u.k3 ∧ (u.acceptEncode w).e0 = u.e0 ∧ (u.acceptEncode w).e1 = u.e1 ∧
    (u.acceptEncode w).e2 = u.e2 ∧ (u.acceptEncode w).e3 = u.e3 ∧ (u.acceptEncode w).v0 = u.v0 ∧
    (u.acceptEncode w).v1 = u.v1 ∧ (u.acceptEncode w).v2 = u.v2 ∧ (u.acceptEncode w).v3 = u.v3 ∧
    (u.acceptEncode w).gcw = u.gcw ∧ (u.acceptEncode w).y0 = u.y0 ∧ (u.acceptEncode w).y1 = u.y1 ∧
    (u.acceptEncode w).y2 = u.y2 ∧ (u.acceptEncode w).portCmd = u.portCmd ∧
    (u.acceptEncode w).portInLen = u.portInLen ∧ (u.acceptEncode w).portIn = u.portIn :=
  ⟨rfl, rfl, rfl, rfl, rfl, rfl, rfl, rfl, rfl, rfl, rfl, rfl, rfl, rfl, rfl, rfl, rfl, rfl, rfl, rfl, rfl, rfl,
    rfl, rfl, rfl, rfl, rfl, rfl, rfl, rfl, rfl⟩

/-- What acceptance of a DECODE writes. -/
@[simp] theorem acceptDecode_written (u : UnitState) (w : BitVec 4) :
    (u.acceptDecode w).cmd = w ∧ (u.acceptDecode w).inLen = u.portInLen ∧ (u.acceptDecode w).inBuf = u.portIn ∧
    (u.acceptDecode w).state = .busy ∧ (u.acceptDecode w).err = none ∧ (u.acceptDecode w).outLen = 0 ∧
    (u.acceptDecode w).outBuf = [] ∧ (u.acceptDecode w).gi = 0 ∧ (u.acceptDecode w).cmdValid = false ∧
    (u.acceptDecode w).phase = .lengthCheck :=
  ⟨rfl, rfl, rfl, rfl, rfl, rfl, rfl, rfl, rfl, rfl⟩

/-- What acceptance of a DECODE leaves alone. -/
@[simp] theorem acceptDecode_kept (u : UnitState) (w : BitVec 4) :
    (u.acceptDecode w).b0 = u.b0 ∧ (u.acceptDecode w).b1 = u.b1 ∧ (u.acceptDecode w).b2 = u.b2 ∧
    (u.acceptDecode w).cnt = u.cnt ∧ (u.acceptDecode w).s0 = u.s0 ∧ (u.acceptDecode w).s1 = u.s1 ∧
    (u.acceptDecode w).s2 = u.s2 ∧ (u.acceptDecode w).s3 = u.s3 ∧ (u.acceptDecode w).q0 = u.q0 ∧
    (u.acceptDecode w).q1 = u.q1 ∧ (u.acceptDecode w).q2 = u.q2 ∧ (u.acceptDecode w).q3 = u.q3 ∧
    (u.acceptDecode w).k0 = u.k0 ∧ (u.acceptDecode w).k1 = u.k1 ∧ (u.acceptDecode w).k2 = u.k2 ∧
    (u.acceptDecode w).k3 = u.k3 ∧ (u.acceptDecode w).e0 = u.e0 ∧ (u.acceptDecode w).e1 = u.e1 ∧
    (u.acceptDecode w).e2 = u.e2 ∧ (u.acceptDecode w).e3 = u.e3 ∧ (u.acceptDecode w).v0 = u.v0 ∧
    (u.acceptDecode w).v1 = u.v1 ∧ (u.acceptDecode w).v2 = u.v2 ∧ (u.acceptDecode w).v3 = u.v3 ∧
    (u.acceptDecode w).gcw = u.gcw ∧ (u.acceptDecode w).y0 = u.y0 ∧ (u.acceptDecode w).y1 = u.y1 ∧
    (u.acceptDecode w).y2 = u.y2 ∧ (u.acceptDecode w).ng = u.ng ∧ (u.acceptDecode w).rem = u.rem ∧
    (u.acceptDecode w).portCmd = u.portCmd ∧ (u.acceptDecode w).portInLen = u.portInLen ∧
    (u.acceptDecode w).portIn = u.portIn :=
  ⟨rfl, rfl, rfl, rfl, rfl, rfl, rfl, rfl, rfl, rfl, rfl, rfl, rfl, rfl, rfl, rfl, rfl, rfl, rfl, rfl, rfl, rfl,
    rfl, rfl, rfl, rfl, rfl, rfl, rfl, rfl, rfl, rfl, rfl⟩

/-- What the host presenting a command writes. -/
@[simp] theorem present_written (u : UnitState) (w : BitVec 4) (bs : List Byte) :
    (u.present w bs).cmdValid = true ∧ (u.present w bs).portCmd = w ∧ (u.present w bs).portInLen = bs.length ∧
    (u.present w bs).portIn = Memory.ofList bs :=
  ⟨rfl, rfl, rfl, rfl⟩

/-- What the host presenting a command leaves alone. -/
@[simp] theorem present_kept (u : UnitState) (w : BitVec 4) (bs : List Byte) :
    (u.present w bs).b0 = u.b0 ∧ (u.present w bs).b1 = u.b1 ∧ (u.present w bs).b2 = u.b2 ∧
    (u.present w bs).cnt = u.cnt ∧ (u.present w bs).s0 = u.s0 ∧ (u.present w bs).s1 = u.s1 ∧
    (u.present w bs).s2 = u.s2 ∧ (u.present w bs).s3 = u.s3 ∧ (u.present w bs).q0 = u.q0 ∧
    (u.present w bs).q1 = u.q1 ∧ (u.present w bs).q2 = u.q2 ∧ (u.present w bs).q3 = u.q3 ∧
    (u.present w bs).k0 = u.k0 ∧ (u.present w bs).k1 = u.k1 ∧ (u.present w bs).k2 = u.k2 ∧
    (u.present w bs).k3 = u.k3 ∧ (u.present w bs).e0 = u.e0 ∧ (u.present w bs).e1 = u.e1 ∧
    (u.present w bs).e2 = u.e2 ∧ (u.present w bs).e3 = u.e3 ∧ (u.present w bs).v0 = u.v0 ∧
    (u.present w bs).v1 = u.v1 ∧ (u.present w bs).v2 = u.v2 ∧ (u.present w bs).v3 = u.v3 ∧
    (u.present w bs).gcw = u.gcw ∧ (u.present w bs).y0 = u.y0 ∧ (u.present w bs).y1 = u.y1 ∧
    (u.present w bs).y2 = u.y2 ∧ (u.present w bs).gi = u.gi ∧ (u.present w bs).ng = u.ng ∧
    (u.present w bs).rem = u.rem ∧ (u.present w bs).phase = u.phase ∧ (u.present w bs).cmd = u.cmd ∧
    (u.present w bs).inLen = u.inLen ∧ (u.present w bs).state = u.state ∧ (u.present w bs).err = u.err ∧
    (u.present w bs).outLen = u.outLen ∧ (u.present w bs).inBuf = u.inBuf ∧ (u.present w bs).outBuf = u.outBuf :=
  ⟨rfl, rfl, rfl, rfl, rfl, rfl, rfl, rfl, rfl, rfl, rfl, rfl, rfl, rfl, rfl, rfl, rfl, rfl, rfl, rfl, rfl, rfl,
    rfl, rfl, rfl, rfl, rfl, rfl, rfl, rfl, rfl, rfl, rfl, rfl, rfl, rfl, rfl, rfl, rfl⟩

/-- What `CNT <- c` writes. -/
@[simp] theorem withCnt_written (u : UnitState) (c : BitVec 2) :
    (u.withCnt c).cnt = c :=
  rfl

/-- What `CNT <- c` leaves alone. -/
@[simp] theorem withCnt_kept (u : UnitState) (c : BitVec 2) :
    (u.withCnt c).b0 = u.b0 ∧ (u.withCnt c).b1 = u.b1 ∧ (u.withCnt c).b2 = u.b2 ∧ (u.withCnt c).s0 = u.s0 ∧
    (u.withCnt c).s1 = u.s1 ∧ (u.withCnt c).s2 = u.s2 ∧ (u.withCnt c).s3 = u.s3 ∧ (u.withCnt c).q0 = u.q0 ∧
    (u.withCnt c).q1 = u.q1 ∧ (u.withCnt c).q2 = u.q2 ∧ (u.withCnt c).q3 = u.q3 ∧ (u.withCnt c).k0 = u.k0 ∧
    (u.withCnt c).k1 = u.k1 ∧ (u.withCnt c).k2 = u.k2 ∧ (u.withCnt c).k3 = u.k3 ∧ (u.withCnt c).e0 = u.e0 ∧
    (u.withCnt c).e1 = u.e1 ∧ (u.withCnt c).e2 = u.e2 ∧ (u.withCnt c).e3 = u.e3 ∧ (u.withCnt c).v0 = u.v0 ∧
    (u.withCnt c).v1 = u.v1 ∧ (u.withCnt c).v2 = u.v2 ∧ (u.withCnt c).v3 = u.v3 ∧ (u.withCnt c).gcw = u.gcw ∧
    (u.withCnt c).y0 = u.y0 ∧ (u.withCnt c).y1 = u.y1 ∧ (u.withCnt c).y2 = u.y2 ∧ (u.withCnt c).gi = u.gi ∧
    (u.withCnt c).ng = u.ng ∧ (u.withCnt c).rem = u.rem ∧ (u.withCnt c).phase = u.phase ∧
    (u.withCnt c).cmd = u.cmd ∧ (u.withCnt c).inLen = u.inLen ∧ (u.withCnt c).state = u.state ∧
    (u.withCnt c).err = u.err ∧ (u.withCnt c).outLen = u.outLen ∧ (u.withCnt c).inBuf = u.inBuf ∧
    (u.withCnt c).outBuf = u.outBuf ∧ (u.withCnt c).cmdValid = u.cmdValid ∧ (u.withCnt c).portCmd = u.portCmd ∧
    (u.withCnt c).portInLen = u.portInLen ∧ (u.withCnt c).portIn = u.portIn :=
  ⟨rfl, rfl, rfl, rfl, rfl, rfl, rfl, rfl, rfl, rfl, rfl, rfl, rfl, rfl, rfl, rfl, rfl, rfl, rfl, rfl, rfl, rfl,
    rfl, rfl, rfl, rfl, rfl, rfl, rfl, rfl, rfl, rfl, rfl, rfl, rfl, rfl, rfl, rfl, rfl, rfl, rfl, rfl⟩

/-- What `GI <- GI + 1` writes. -/
@[simp] theorem nextGroup_written (u : UnitState) :
    (u.nextGroup).gi = u.gi + 1 :=
  rfl

/-- What `GI <- GI + 1` leaves alone. -/
@[simp] theorem nextGroup_kept (u : UnitState) :
    (u.nextGroup).b0 = u.b0 ∧ (u.nextGroup).b1 = u.b1 ∧ (u.nextGroup).b2 = u.b2 ∧ (u.nextGroup).cnt = u.cnt ∧
    (u.nextGroup).s0 = u.s0 ∧ (u.nextGroup).s1 = u.s1 ∧ (u.nextGroup).s2 = u.s2 ∧ (u.nextGroup).s3 = u.s3 ∧
    (u.nextGroup).q0 = u.q0 ∧ (u.nextGroup).q1 = u.q1 ∧ (u.nextGroup).q2 = u.q2 ∧ (u.nextGroup).q3 = u.q3 ∧
    (u.nextGroup).k0 = u.k0 ∧ (u.nextGroup).k1 = u.k1 ∧ (u.nextGroup).k2 = u.k2 ∧ (u.nextGroup).k3 = u.k3 ∧
    (u.nextGroup).e0 = u.e0 ∧ (u.nextGroup).e1 = u.e1 ∧ (u.nextGroup).e2 = u.e2 ∧ (u.nextGroup).e3 = u.e3 ∧
    (u.nextGroup).v0 = u.v0 ∧ (u.nextGroup).v1 = u.v1 ∧ (u.nextGroup).v2 = u.v2 ∧ (u.nextGroup).v3 = u.v3 ∧
    (u.nextGroup).gcw = u.gcw ∧ (u.nextGroup).y0 = u.y0 ∧ (u.nextGroup).y1 = u.y1 ∧ (u.nextGroup).y2 = u.y2 ∧
    (u.nextGroup).ng = u.ng ∧ (u.nextGroup).rem = u.rem ∧ (u.nextGroup).phase = u.phase ∧
    (u.nextGroup).cmd = u.cmd ∧ (u.nextGroup).inLen = u.inLen ∧ (u.nextGroup).state = u.state ∧
    (u.nextGroup).err = u.err ∧ (u.nextGroup).outLen = u.outLen ∧ (u.nextGroup).inBuf = u.inBuf ∧
    (u.nextGroup).outBuf = u.outBuf ∧ (u.nextGroup).cmdValid = u.cmdValid ∧ (u.nextGroup).portCmd = u.portCmd ∧
    (u.nextGroup).portInLen = u.portInLen ∧ (u.nextGroup).portIn = u.portIn :=
  ⟨rfl, rfl, rfl, rfl, rfl, rfl, rfl, rfl, rfl, rfl, rfl, rfl, rfl, rfl, rfl, rfl, rfl, rfl, rfl, rfl, rfl, rfl,
    rfl, rfl, rfl, rfl, rfl, rfl, rfl, rfl, rfl, rfl, rfl, rfl, rfl, rfl, rfl, rfl, rfl, rfl, rfl, rfl⟩

/-- What the characters of a group writes. -/
@[simp] theorem withQ_written (u : UnitState) (c0 c1 c2 c3 : Byte) :
    (u.withQ c0 c1 c2 c3).q0 = c0 ∧ (u.withQ c0 c1 c2 c3).q1 = c1 ∧ (u.withQ c0 c1 c2 c3).q2 = c2 ∧
    (u.withQ c0 c1 c2 c3).q3 = c3 :=
  ⟨rfl, rfl, rfl, rfl⟩

/-- What the characters of a group leaves alone. -/
@[simp] theorem withQ_kept (u : UnitState) (c0 c1 c2 c3 : Byte) :
    (u.withQ c0 c1 c2 c3).b0 = u.b0 ∧ (u.withQ c0 c1 c2 c3).b1 = u.b1 ∧ (u.withQ c0 c1 c2 c3).b2 = u.b2 ∧
    (u.withQ c0 c1 c2 c3).cnt = u.cnt ∧ (u.withQ c0 c1 c2 c3).s0 = u.s0 ∧ (u.withQ c0 c1 c2 c3).s1 = u.s1 ∧
    (u.withQ c0 c1 c2 c3).s2 = u.s2 ∧ (u.withQ c0 c1 c2 c3).s3 = u.s3 ∧ (u.withQ c0 c1 c2 c3).k0 = u.k0 ∧
    (u.withQ c0 c1 c2 c3).k1 = u.k1 ∧ (u.withQ c0 c1 c2 c3).k2 = u.k2 ∧ (u.withQ c0 c1 c2 c3).k3 = u.k3 ∧
    (u.withQ c0 c1 c2 c3).e0 = u.e0 ∧ (u.withQ c0 c1 c2 c3).e1 = u.e1 ∧ (u.withQ c0 c1 c2 c3).e2 = u.e2 ∧
    (u.withQ c0 c1 c2 c3).e3 = u.e3 ∧ (u.withQ c0 c1 c2 c3).v0 = u.v0 ∧ (u.withQ c0 c1 c2 c3).v1 = u.v1 ∧
    (u.withQ c0 c1 c2 c3).v2 = u.v2 ∧ (u.withQ c0 c1 c2 c3).v3 = u.v3 ∧ (u.withQ c0 c1 c2 c3).gcw = u.gcw ∧
    (u.withQ c0 c1 c2 c3).y0 = u.y0 ∧ (u.withQ c0 c1 c2 c3).y1 = u.y1 ∧ (u.withQ c0 c1 c2 c3).y2 = u.y2 ∧
    (u.withQ c0 c1 c2 c3).gi = u.gi ∧ (u.withQ c0 c1 c2 c3).ng = u.ng ∧ (u.withQ c0 c1 c2 c3).rem = u.rem ∧
    (u.withQ c0 c1 c2 c3).phase = u.phase ∧ (u.withQ c0 c1 c2 c3).cmd = u.cmd ∧
    (u.withQ c0 c1 c2 c3).inLen = u.inLen ∧ (u.withQ c0 c1 c2 c3).state = u.state ∧
    (u.withQ c0 c1 c2 c3).err = u.err ∧ (u.withQ c0 c1 c2 c3).outLen = u.outLen ∧
    (u.withQ c0 c1 c2 c3).inBuf = u.inBuf ∧ (u.withQ c0 c1 c2 c3).outBuf = u.outBuf ∧
    (u.withQ c0 c1 c2 c3).cmdValid = u.cmdValid ∧ (u.withQ c0 c1 c2 c3).portCmd = u.portCmd ∧
    (u.withQ c0 c1 c2 c3).portInLen = u.portInLen ∧ (u.withQ c0 c1 c2 c3).portIn = u.portIn :=
  ⟨rfl, rfl, rfl, rfl, rfl, rfl, rfl, rfl, rfl, rfl, rfl, rfl, rfl, rfl, rfl, rfl, rfl, rfl, rfl, rfl, rfl, rfl,
    rfl, rfl, rfl, rfl, rfl, rfl, rfl, rfl, rfl, rfl, rfl, rfl, rfl, rfl, rfl, rfl, rfl⟩

/-- What fetch and split of a full group writes. -/
@[simp] theorem withRaw3_written (u : UnitState) (c0 c1 c2 : Byte) :
    (u.withRaw3 c0 c1 c2).b0 = c0 ∧ (u.withRaw3 c0 c1 c2).b1 = c1 ∧ (u.withRaw3 c0 c1 c2).b2 = c2 ∧
    (u.withRaw3 c0 c1 c2).s0 = sextet0 c0 ∧ (u.withRaw3 c0 c1 c2).s1 = sextet1 c0 c1 ∧
    (u.withRaw3 c0 c1 c2).s2 = sextet2 c1 c2 ∧ (u.withRaw3 c0 c1 c2).s3 = sextet3 c2 :=
  ⟨rfl, rfl, rfl, rfl, rfl, rfl, rfl⟩

/-- What fetch and split of a full group leaves alone. -/
@[simp] theorem withRaw3_kept (u : UnitState) (c0 c1 c2 : Byte) :
    (u.withRaw3 c0 c1 c2).cnt = u.cnt ∧ (u.withRaw3 c0 c1 c2).q0 = u.q0 ∧ (u.withRaw3 c0 c1 c2).q1 = u.q1 ∧
    (u.withRaw3 c0 c1 c2).q2 = u.q2 ∧ (u.withRaw3 c0 c1 c2).q3 = u.q3 ∧ (u.withRaw3 c0 c1 c2).k0 = u.k0 ∧
    (u.withRaw3 c0 c1 c2).k1 = u.k1 ∧ (u.withRaw3 c0 c1 c2).k2 = u.k2 ∧ (u.withRaw3 c0 c1 c2).k3 = u.k3 ∧
    (u.withRaw3 c0 c1 c2).e0 = u.e0 ∧ (u.withRaw3 c0 c1 c2).e1 = u.e1 ∧ (u.withRaw3 c0 c1 c2).e2 = u.e2 ∧
    (u.withRaw3 c0 c1 c2).e3 = u.e3 ∧ (u.withRaw3 c0 c1 c2).v0 = u.v0 ∧ (u.withRaw3 c0 c1 c2).v1 = u.v1 ∧
    (u.withRaw3 c0 c1 c2).v2 = u.v2 ∧ (u.withRaw3 c0 c1 c2).v3 = u.v3 ∧ (u.withRaw3 c0 c1 c2).gcw = u.gcw ∧
    (u.withRaw3 c0 c1 c2).y0 = u.y0 ∧ (u.withRaw3 c0 c1 c2).y1 = u.y1 ∧ (u.withRaw3 c0 c1 c2).y2 = u.y2 ∧
    (u.withRaw3 c0 c1 c2).gi = u.gi ∧ (u.withRaw3 c0 c1 c2).ng = u.ng ∧ (u.withRaw3 c0 c1 c2).rem = u.rem ∧
    (u.withRaw3 c0 c1 c2).phase = u.phase ∧ (u.withRaw3 c0 c1 c2).cmd = u.cmd ∧
    (u.withRaw3 c0 c1 c2).inLen = u.inLen ∧ (u.withRaw3 c0 c1 c2).state = u.state ∧
    (u.withRaw3 c0 c1 c2).err = u.err ∧ (u.withRaw3 c0 c1 c2).outLen = u.outLen ∧
    (u.withRaw3 c0 c1 c2).inBuf = u.inBuf ∧ (u.withRaw3 c0 c1 c2).outBuf = u.outBuf ∧
    (u.withRaw3 c0 c1 c2).cmdValid = u.cmdValid ∧ (u.withRaw3 c0 c1 c2).portCmd = u.portCmd ∧
    (u.withRaw3 c0 c1 c2).portInLen = u.portInLen ∧ (u.withRaw3 c0 c1 c2).portIn = u.portIn :=
  ⟨rfl, rfl, rfl, rfl, rfl, rfl, rfl, rfl, rfl, rfl, rfl, rfl, rfl, rfl, rfl, rfl, rfl, rfl, rfl, rfl, rfl, rfl,
    rfl, rfl, rfl, rfl, rfl, rfl, rfl, rfl, rfl, rfl, rfl, rfl, rfl, rfl⟩

/-- What fetch and split of a two-byte tail writes. -/
@[simp] theorem withRaw2_written (u : UnitState) (c0 c1 : Byte) :
    (u.withRaw2 c0 c1).b0 = c0 ∧ (u.withRaw2 c0 c1).b1 = c1 ∧ (u.withRaw2 c0 c1).s0 = sextet0 c0 ∧
    (u.withRaw2 c0 c1).s1 = sextet1 c0 c1 ∧ (u.withRaw2 c0 c1).s2 = sextet2Tail c1 :=
  ⟨rfl, rfl, rfl, rfl, rfl⟩

/-- What fetch and split of a two-byte tail leaves alone. -/
@[simp] theorem withRaw2_kept (u : UnitState) (c0 c1 : Byte) :
    (u.withRaw2 c0 c1).b2 = u.b2 ∧ (u.withRaw2 c0 c1).cnt = u.cnt ∧ (u.withRaw2 c0 c1).s3 = u.s3 ∧
    (u.withRaw2 c0 c1).q0 = u.q0 ∧ (u.withRaw2 c0 c1).q1 = u.q1 ∧ (u.withRaw2 c0 c1).q2 = u.q2 ∧
    (u.withRaw2 c0 c1).q3 = u.q3 ∧ (u.withRaw2 c0 c1).k0 = u.k0 ∧ (u.withRaw2 c0 c1).k1 = u.k1 ∧
    (u.withRaw2 c0 c1).k2 = u.k2 ∧ (u.withRaw2 c0 c1).k3 = u.k3 ∧ (u.withRaw2 c0 c1).e0 = u.e0 ∧
    (u.withRaw2 c0 c1).e1 = u.e1 ∧ (u.withRaw2 c0 c1).e2 = u.e2 ∧ (u.withRaw2 c0 c1).e3 = u.e3 ∧
    (u.withRaw2 c0 c1).v0 = u.v0 ∧ (u.withRaw2 c0 c1).v1 = u.v1 ∧ (u.withRaw2 c0 c1).v2 = u.v2 ∧
    (u.withRaw2 c0 c1).v3 = u.v3 ∧ (u.withRaw2 c0 c1).gcw = u.gcw ∧ (u.withRaw2 c0 c1).y0 = u.y0 ∧
    (u.withRaw2 c0 c1).y1 = u.y1 ∧ (u.withRaw2 c0 c1).y2 = u.y2 ∧ (u.withRaw2 c0 c1).gi = u.gi ∧
    (u.withRaw2 c0 c1).ng = u.ng ∧ (u.withRaw2 c0 c1).rem = u.rem ∧ (u.withRaw2 c0 c1).phase = u.phase ∧
    (u.withRaw2 c0 c1).cmd = u.cmd ∧ (u.withRaw2 c0 c1).inLen = u.inLen ∧ (u.withRaw2 c0 c1).state = u.state ∧
    (u.withRaw2 c0 c1).err = u.err ∧ (u.withRaw2 c0 c1).outLen = u.outLen ∧ (u.withRaw2 c0 c1).inBuf = u.inBuf ∧
    (u.withRaw2 c0 c1).outBuf = u.outBuf ∧ (u.withRaw2 c0 c1).cmdValid = u.cmdValid ∧
    (u.withRaw2 c0 c1).portCmd = u.portCmd ∧ (u.withRaw2 c0 c1).portInLen = u.portInLen ∧
    (u.withRaw2 c0 c1).portIn = u.portIn :=
  ⟨rfl, rfl, rfl, rfl, rfl, rfl, rfl, rfl, rfl, rfl, rfl, rfl, rfl, rfl, rfl, rfl, rfl, rfl, rfl, rfl, rfl, rfl,
    rfl, rfl, rfl, rfl, rfl, rfl, rfl, rfl, rfl, rfl, rfl, rfl, rfl, rfl, rfl, rfl⟩

/-- What fetch and split of a one-byte tail writes. -/
@[simp] theorem withRaw1_written (u : UnitState) (c0 : Byte) :
    (u.withRaw1 c0).b0 = c0 ∧ (u.withRaw1 c0).s0 = sextet0 c0 ∧ (u.withRaw1 c0).s1 = sextet1Tail c0 :=
  ⟨rfl, rfl, rfl⟩

/-- What fetch and split of a one-byte tail leaves alone. -/
@[simp] theorem withRaw1_kept (u : UnitState) (c0 : Byte) :
    (u.withRaw1 c0).b1 = u.b1 ∧ (u.withRaw1 c0).b2 = u.b2 ∧ (u.withRaw1 c0).cnt = u.cnt ∧
    (u.withRaw1 c0).s2 = u.s2 ∧ (u.withRaw1 c0).s3 = u.s3 ∧ (u.withRaw1 c0).q0 = u.q0 ∧
    (u.withRaw1 c0).q1 = u.q1 ∧ (u.withRaw1 c0).q2 = u.q2 ∧ (u.withRaw1 c0).q3 = u.q3 ∧
    (u.withRaw1 c0).k0 = u.k0 ∧ (u.withRaw1 c0).k1 = u.k1 ∧ (u.withRaw1 c0).k2 = u.k2 ∧
    (u.withRaw1 c0).k3 = u.k3 ∧ (u.withRaw1 c0).e0 = u.e0 ∧ (u.withRaw1 c0).e1 = u.e1 ∧
    (u.withRaw1 c0).e2 = u.e2 ∧ (u.withRaw1 c0).e3 = u.e3 ∧ (u.withRaw1 c0).v0 = u.v0 ∧
    (u.withRaw1 c0).v1 = u.v1 ∧ (u.withRaw1 c0).v2 = u.v2 ∧ (u.withRaw1 c0).v3 = u.v3 ∧
    (u.withRaw1 c0).gcw = u.gcw ∧ (u.withRaw1 c0).y0 = u.y0 ∧ (u.withRaw1 c0).y1 = u.y1 ∧
    (u.withRaw1 c0).y2 = u.y2 ∧ (u.withRaw1 c0).gi = u.gi ∧ (u.withRaw1 c0).ng = u.ng ∧
    (u.withRaw1 c0).rem = u.rem ∧ (u.withRaw1 c0).phase = u.phase ∧ (u.withRaw1 c0).cmd = u.cmd ∧
    (u.withRaw1 c0).inLen = u.inLen ∧ (u.withRaw1 c0).state = u.state ∧ (u.withRaw1 c0).err = u.err ∧
    (u.withRaw1 c0).outLen = u.outLen ∧ (u.withRaw1 c0).inBuf = u.inBuf ∧ (u.withRaw1 c0).outBuf = u.outBuf ∧
    (u.withRaw1 c0).cmdValid = u.cmdValid ∧ (u.withRaw1 c0).portCmd = u.portCmd ∧
    (u.withRaw1 c0).portInLen = u.portInLen ∧ (u.withRaw1 c0).portIn = u.portIn :=
  ⟨rfl, rfl, rfl, rfl, rfl, rfl, rfl, rfl, rfl, rfl, rfl, rfl, rfl, rfl, rfl, rfl, rfl, rfl, rfl, rfl, rfl, rfl,
    rfl, rfl, rfl, rfl, rfl, rfl, rfl, rfl, rfl, rfl, rfl, rfl, rfl, rfl, rfl, rfl, rfl, rfl⟩

/-- What emit writes. -/
@[simp] theorem emit_written (u : UnitState) :
    (u.emit).outBuf = Memory.writeFrom u.outBuf u.outLen [u.q0, u.q1, u.q2, u.q3] ∧
    (u.emit).outLen = u.outLen + 4 :=
  ⟨rfl, rfl⟩

/-- What emit leaves alone. -/
@[simp] theorem emit_kept (u : UnitState) :
    (u.emit).b0 = u.b0 ∧ (u.emit).b1 = u.b1 ∧ (u.emit).b2 = u.b2 ∧ (u.emit).cnt = u.cnt ∧ (u.emit).s0 = u.s0 ∧
    (u.emit).s1 = u.s1 ∧ (u.emit).s2 = u.s2 ∧ (u.emit).s3 = u.s3 ∧ (u.emit).q0 = u.q0 ∧ (u.emit).q1 = u.q1 ∧
    (u.emit).q2 = u.q2 ∧ (u.emit).q3 = u.q3 ∧ (u.emit).k0 = u.k0 ∧ (u.emit).k1 = u.k1 ∧ (u.emit).k2 = u.k2 ∧
    (u.emit).k3 = u.k3 ∧ (u.emit).e0 = u.e0 ∧ (u.emit).e1 = u.e1 ∧ (u.emit).e2 = u.e2 ∧ (u.emit).e3 = u.e3 ∧
    (u.emit).v0 = u.v0 ∧ (u.emit).v1 = u.v1 ∧ (u.emit).v2 = u.v2 ∧ (u.emit).v3 = u.v3 ∧ (u.emit).gcw = u.gcw ∧
    (u.emit).y0 = u.y0 ∧ (u.emit).y1 = u.y1 ∧ (u.emit).y2 = u.y2 ∧ (u.emit).gi = u.gi ∧ (u.emit).ng = u.ng ∧
    (u.emit).rem = u.rem ∧ (u.emit).phase = u.phase ∧ (u.emit).cmd = u.cmd ∧ (u.emit).inLen = u.inLen ∧
    (u.emit).state = u.state ∧ (u.emit).err = u.err ∧ (u.emit).inBuf = u.inBuf ∧ (u.emit).cmdValid = u.cmdValid ∧
    (u.emit).portCmd = u.portCmd ∧ (u.emit).portInLen = u.portInLen ∧ (u.emit).portIn = u.portIn :=
  ⟨rfl, rfl, rfl, rfl, rfl, rfl, rfl, rfl, rfl, rfl, rfl, rfl, rfl, rfl, rfl, rfl, rfl, rfl, rfl, rfl, rfl, rfl,
    rfl, rfl, rfl, rfl, rfl, rfl, rfl, rfl, rfl, rfl, rfl, rfl, rfl, rfl, rfl, rfl, rfl, rfl, rfl⟩

/-- What the lookup stage writes. -/
@[simp] theorem withEntries_written (u : UnitState) (c0 c1 c2 c3 : Byte) :
    (u.withEntries c0 c1 c2 c3).e0 = c0 ∧ (u.withEntries c0 c1 c2 c3).e1 = c1 ∧
    (u.withEntries c0 c1 c2 c3).e2 = c2 ∧ (u.withEntries c0 c1 c2 c3).e3 = c3 ∧
    (u.withEntries c0 c1 c2 c3).v0 = entryVal c0 ∧ (u.withEntries c0 c1 c2 c3).v1 = entryVal c1 ∧
    (u.withEntries c0 c1 c2 c3).v2 = entryVal c2 ∧ (u.withEntries c0 c1 c2 c3).v3 = entryVal c3 :=
  ⟨rfl, rfl, rfl, rfl, rfl, rfl, rfl, rfl⟩

/-- What the lookup stage leaves alone. -/
@[simp] theorem withEntries_kept (u : UnitState) (c0 c1 c2 c3 : Byte) :
    (u.withEntries c0 c1 c2 c3).b0 = u.b0 ∧ (u.withEntries c0 c1 c2 c3).b1 = u.b1 ∧
    (u.withEntries c0 c1 c2 c3).b2 = u.b2 ∧ (u.withEntries c0 c1 c2 c3).cnt = u.cnt ∧
    (u.withEntries c0 c1 c2 c3).s0 = u.s0 ∧ (u.withEntries c0 c1 c2 c3).s1 = u.s1 ∧
    (u.withEntries c0 c1 c2 c3).s2 = u.s2 ∧ (u.withEntries c0 c1 c2 c3).s3 = u.s3 ∧
    (u.withEntries c0 c1 c2 c3).q0 = u.q0 ∧ (u.withEntries c0 c1 c2 c3).q1 = u.q1 ∧
    (u.withEntries c0 c1 c2 c3).q2 = u.q2 ∧ (u.withEntries c0 c1 c2 c3).q3 = u.q3 ∧
    (u.withEntries c0 c1 c2 c3).k0 = u.k0 ∧ (u.withEntries c0 c1 c2 c3).k1 = u.k1 ∧
    (u.withEntries c0 c1 c2 c3).k2 = u.k2 ∧ (u.withEntries c0 c1 c2 c3).k3 = u.k3 ∧
    (u.withEntries c0 c1 c2 c3).gcw = u.gcw ∧ (u.withEntries c0 c1 c2 c3).y0 = u.y0 ∧
    (u.withEntries c0 c1 c2 c3).y1 = u.y1 ∧ (u.withEntries c0 c1 c2 c3).y2 = u.y2 ∧
    (u.withEntries c0 c1 c2 c3).gi = u.gi ∧ (u.withEntries c0 c1 c2 c3).ng = u.ng ∧
    (u.withEntries c0 c1 c2 c3).rem = u.rem ∧ (u.withEntries c0 c1 c2 c3).phase = u.phase ∧
    (u.withEntries c0 c1 c2 c3).cmd = u.cmd ∧ (u.withEntries c0 c1 c2 c3).inLen = u.inLen ∧
    (u.withEntries c0 c1 c2 c3).state = u.state ∧ (u.withEntries c0 c1 c2 c3).err = u.err ∧
    (u.withEntries c0 c1 c2 c3).outLen = u.outLen ∧ (u.withEntries c0 c1 c2 c3).inBuf = u.inBuf ∧
    (u.withEntries c0 c1 c2 c3).outBuf = u.outBuf ∧ (u.withEntries c0 c1 c2 c3).cmdValid = u.cmdValid ∧
    (u.withEntries c0 c1 c2 c3).portCmd = u.portCmd ∧ (u.withEntries c0 c1 c2 c3).portInLen = u.portInLen ∧
    (u.withEntries c0 c1 c2 c3).portIn = u.portIn :=
  ⟨rfl, rfl, rfl, rfl, rfl, rfl, rfl, rfl, rfl, rfl, rfl, rfl, rfl, rfl, rfl, rfl, rfl, rfl, rfl, rfl, rfl, rfl,
    rfl, rfl, rfl, rfl, rfl, rfl, rfl, rfl, rfl, rfl, rfl, rfl, rfl⟩

/-- What `DEC.FULL` writes. -/
@[simp] theorem decFull_written (u : UnitState) :
    (u.decFull).y0 = outByte0 u.v0 u.v1 ∧ (u.decFull).y1 = outByte1 u.v1 u.v2 ∧
    (u.decFull).y2 = outByte2 u.v2 u.v3 ∧ (u.decFull).gi = u.gi + 1 ∧ (u.decFull).outLen = u.outLen + 3 ∧
    (u.decFull).outBuf = Memory.writeFrom u.outBuf u.outLen [outByte0 u.v0 u.v1, outByte1 u.v1 u.v2, outByte2 u.v2 u.v3] :=
  ⟨rfl, rfl, rfl, rfl, rfl, rfl⟩

/-- What `DEC.FULL` leaves alone. -/
@[simp] theorem decFull_kept (u : UnitState) :
    (u.decFull).b0 = u.b0 ∧ (u.decFull).b1 = u.b1 ∧ (u.decFull).b2 = u.b2 ∧ (u.decFull).cnt = u.cnt ∧
    (u.decFull).s0 = u.s0 ∧ (u.decFull).s1 = u.s1 ∧ (u.decFull).s2 = u.s2 ∧ (u.decFull).s3 = u.s3 ∧
    (u.decFull).q0 = u.q0 ∧ (u.decFull).q1 = u.q1 ∧ (u.decFull).q2 = u.q2 ∧ (u.decFull).q3 = u.q3 ∧
    (u.decFull).k0 = u.k0 ∧ (u.decFull).k1 = u.k1 ∧ (u.decFull).k2 = u.k2 ∧ (u.decFull).k3 = u.k3 ∧
    (u.decFull).e0 = u.e0 ∧ (u.decFull).e1 = u.e1 ∧ (u.decFull).e2 = u.e2 ∧ (u.decFull).e3 = u.e3 ∧
    (u.decFull).v0 = u.v0 ∧ (u.decFull).v1 = u.v1 ∧ (u.decFull).v2 = u.v2 ∧ (u.decFull).v3 = u.v3 ∧
    (u.decFull).gcw = u.gcw ∧ (u.decFull).ng = u.ng ∧ (u.decFull).rem = u.rem ∧ (u.decFull).phase = u.phase ∧
    (u.decFull).cmd = u.cmd ∧ (u.decFull).inLen = u.inLen ∧ (u.decFull).state = u.state ∧
    (u.decFull).err = u.err ∧ (u.decFull).inBuf = u.inBuf ∧ (u.decFull).cmdValid = u.cmdValid ∧
    (u.decFull).portCmd = u.portCmd ∧ (u.decFull).portInLen = u.portInLen ∧ (u.decFull).portIn = u.portIn :=
  ⟨rfl, rfl, rfl, rfl, rfl, rfl, rfl, rfl, rfl, rfl, rfl, rfl, rfl, rfl, rfl, rfl, rfl, rfl, rfl, rfl, rfl, rfl,
    rfl, rfl, rfl, rfl, rfl, rfl, rfl, rfl, rfl, rfl, rfl, rfl, rfl, rfl, rfl⟩

/-- What the bytes of `DEC.TAIL2` writes. -/
@[simp] theorem decTail2_written (u : UnitState) :
    (u.decTail2).y0 = outByte0 u.v0 u.v1 ∧ (u.decTail2).y1 = outByte1 u.v1 u.v2 ∧
    (u.decTail2).outLen = u.outLen + 2 ∧
    (u.decTail2).outBuf = Memory.writeFrom u.outBuf u.outLen [outByte0 u.v0 u.v1, outByte1 u.v1 u.v2] :=
  ⟨rfl, rfl, rfl, rfl⟩

/-- What the bytes of `DEC.TAIL2` leaves alone. -/
@[simp] theorem decTail2_kept (u : UnitState) :
    (u.decTail2).b0 = u.b0 ∧ (u.decTail2).b1 = u.b1 ∧ (u.decTail2).b2 = u.b2 ∧ (u.decTail2).cnt = u.cnt ∧
    (u.decTail2).s0 = u.s0 ∧ (u.decTail2).s1 = u.s1 ∧ (u.decTail2).s2 = u.s2 ∧ (u.decTail2).s3 = u.s3 ∧
    (u.decTail2).q0 = u.q0 ∧ (u.decTail2).q1 = u.q1 ∧ (u.decTail2).q2 = u.q2 ∧ (u.decTail2).q3 = u.q3 ∧
    (u.decTail2).k0 = u.k0 ∧ (u.decTail2).k1 = u.k1 ∧ (u.decTail2).k2 = u.k2 ∧ (u.decTail2).k3 = u.k3 ∧
    (u.decTail2).e0 = u.e0 ∧ (u.decTail2).e1 = u.e1 ∧ (u.decTail2).e2 = u.e2 ∧ (u.decTail2).e3 = u.e3 ∧
    (u.decTail2).v0 = u.v0 ∧ (u.decTail2).v1 = u.v1 ∧ (u.decTail2).v2 = u.v2 ∧ (u.decTail2).v3 = u.v3 ∧
    (u.decTail2).gcw = u.gcw ∧ (u.decTail2).y2 = u.y2 ∧ (u.decTail2).gi = u.gi ∧ (u.decTail2).ng = u.ng ∧
    (u.decTail2).rem = u.rem ∧ (u.decTail2).phase = u.phase ∧ (u.decTail2).cmd = u.cmd ∧
    (u.decTail2).inLen = u.inLen ∧ (u.decTail2).state = u.state ∧ (u.decTail2).err = u.err ∧
    (u.decTail2).inBuf = u.inBuf ∧ (u.decTail2).cmdValid = u.cmdValid ∧ (u.decTail2).portCmd = u.portCmd ∧
    (u.decTail2).portInLen = u.portInLen ∧ (u.decTail2).portIn = u.portIn :=
  ⟨rfl, rfl, rfl, rfl, rfl, rfl, rfl, rfl, rfl, rfl, rfl, rfl, rfl, rfl, rfl, rfl, rfl, rfl, rfl, rfl, rfl, rfl,
    rfl, rfl, rfl, rfl, rfl, rfl, rfl, rfl, rfl, rfl, rfl, rfl, rfl, rfl, rfl, rfl, rfl⟩

/-- What the byte of `DEC.TAIL1` writes. -/
@[simp] theorem decTail1_written (u : UnitState) :
    (u.decTail1).y0 = outByte0 u.v0 u.v1 ∧ (u.decTail1).outLen = u.outLen + 1 ∧
    (u.decTail1).outBuf = Memory.writeFrom u.outBuf u.outLen [outByte0 u.v0 u.v1] :=
  ⟨rfl, rfl, rfl⟩

/-- What the byte of `DEC.TAIL1` leaves alone. -/
@[simp] theorem decTail1_kept (u : UnitState) :
    (u.decTail1).b0 = u.b0 ∧ (u.decTail1).b1 = u.b1 ∧ (u.decTail1).b2 = u.b2 ∧ (u.decTail1).cnt = u.cnt ∧
    (u.decTail1).s0 = u.s0 ∧ (u.decTail1).s1 = u.s1 ∧ (u.decTail1).s2 = u.s2 ∧ (u.decTail1).s3 = u.s3 ∧
    (u.decTail1).q0 = u.q0 ∧ (u.decTail1).q1 = u.q1 ∧ (u.decTail1).q2 = u.q2 ∧ (u.decTail1).q3 = u.q3 ∧
    (u.decTail1).k0 = u.k0 ∧ (u.decTail1).k1 = u.k1 ∧ (u.decTail1).k2 = u.k2 ∧ (u.decTail1).k3 = u.k3 ∧
    (u.decTail1).e0 = u.e0 ∧ (u.decTail1).e1 = u.e1 ∧ (u.decTail1).e2 = u.e2 ∧ (u.decTail1).e3 = u.e3 ∧
    (u.decTail1).v0 = u.v0 ∧ (u.decTail1).v1 = u.v1 ∧ (u.decTail1).v2 = u.v2 ∧ (u.decTail1).v3 = u.v3 ∧
    (u.decTail1).gcw = u.gcw ∧ (u.decTail1).y1 = u.y1 ∧ (u.decTail1).y2 = u.y2 ∧ (u.decTail1).gi = u.gi ∧
    (u.decTail1).ng = u.ng ∧ (u.decTail1).rem = u.rem ∧ (u.decTail1).phase = u.phase ∧ (u.decTail1).cmd = u.cmd ∧
    (u.decTail1).inLen = u.inLen ∧ (u.decTail1).state = u.state ∧ (u.decTail1).err = u.err ∧
    (u.decTail1).inBuf = u.inBuf ∧ (u.decTail1).cmdValid = u.cmdValid ∧ (u.decTail1).portCmd = u.portCmd ∧
    (u.decTail1).portInLen = u.portInLen ∧ (u.decTail1).portIn = u.portIn :=
  ⟨rfl, rfl, rfl, rfl, rfl, rfl, rfl, rfl, rfl, rfl, rfl, rfl, rfl, rfl, rfl, rfl, rfl, rfl, rfl, rfl, rfl, rfl,
    rfl, rfl, rfl, rfl, rfl, rfl, rfl, rfl, rfl, rfl, rfl, rfl, rfl, rfl, rfl, rfl, rfl, rfl⟩

/-! ## Updates of the machine -/

/-- What changing the unit in focus writes. -/
@[simp] theorem withUnit_written (s : State) (u : UnitState) :
    (s.withUnit u).unit = u :=
  rfl

/-- What changing the unit in focus leaves alone. -/
@[simp] theorem withUnit_kept (s : State) (u : UnitState) :
    (s.withUnit u).params = s.params ∧ (s.withUnit u).lut0 = s.lut0 ∧ (s.withUnit u).lut1 = s.lut1 ∧
    (s.withUnit u).lutValid0 = s.lutValid0 ∧ (s.withUnit u).lutValid1 = s.lutValid1 ∧
    (s.withUnit u).others = s.others ∧ (s.withUnit u).events = s.events ∧ (s.withUnit u).freeCtr = s.freeCtr :=
  ⟨rfl, rfl, rfl, rfl, rfl, rfl, rfl, rfl⟩

/-- What changing the events to come writes. -/
@[simp] theorem withEvents_written (s : State) (es : List Event) :
    (s.withEvents es).events = es :=
  rfl

/-- What changing the events to come leaves alone. -/
@[simp] theorem withEvents_kept (s : State) (es : List Event) :
    (s.withEvents es).params = s.params ∧ (s.withEvents es).lut0 = s.lut0 ∧ (s.withEvents es).lut1 = s.lut1 ∧
    (s.withEvents es).lutValid0 = s.lutValid0 ∧ (s.withEvents es).lutValid1 = s.lutValid1 ∧
    (s.withEvents es).unit = s.unit ∧ (s.withEvents es).others = s.others ∧
    (s.withEvents es).freeCtr = s.freeCtr :=
  ⟨rfl, rfl, rfl, rfl, rfl, rfl, rfl, rfl⟩

/-- What `raise` writes. -/
@[simp] theorem raiseError_written (s : State) (e : DecodeError) :
    (raiseError e s).freeCtr = s.freeCtr + 1 :=
  rfl

/-- What `raise` leaves alone. -/
@[simp] theorem raiseError_kept (s : State) (e : DecodeError) :
    (raiseError e s).params = s.params ∧ (raiseError e s).lut0 = s.lut0 ∧ (raiseError e s).lut1 = s.lut1 ∧
    (raiseError e s).lutValid0 = s.lutValid0 ∧ (raiseError e s).lutValid1 = s.lutValid1 ∧
    (raiseError e s).others = s.others ∧ (raiseError e s).events = s.events :=
  ⟨rfl, rfl, rfl, rfl, rfl, rfl, rfl⟩

/-- What reset writes. -/
@[simp] theorem applyReset_written (s : State) :
    (applyReset s).lut0 = [] ∧ (applyReset s).lut1 = [] ∧ (applyReset s).lutValid0 = false ∧
    (applyReset s).lutValid1 = false ∧ (applyReset s).unit = s.unit.onReset (Config.freeOut s.freeCtr) ∧
    (applyReset s).others = resetOthers (s.freeCtr + 1) s.others ∧
    (applyReset s).freeCtr = s.freeCtr + 1 + s.others.length :=
  ⟨rfl, rfl, rfl, rfl, rfl, rfl, rfl⟩

/-- What reset leaves alone. -/
@[simp] theorem applyReset_kept (s : State) :
    (applyReset s).params = s.params ∧ (applyReset s).events = s.events :=
  ⟨rfl, rfl⟩

/-- What `raise` writes of the unit (60_exceptions.md R131, R133). -/
@[simp] theorem raiseError_unit_written (s : State) (e : DecodeError) :
    (raiseError e s).unit.err = some e ∧ (raiseError e s).unit.state = .fail ∧
    (raiseError e s).unit.outBuf = Memory.ofList (Config.freeOut s.freeCtr) ∧
    (raiseError e s).unit.outLen = cutLen s.params (Config.freeOutLen s.freeCtr) :=
  ⟨rfl, rfl, rfl, rfl⟩

/-- What `raise` leaves alone of the unit: "nothing else is saved" (60_exceptions.md R131). -/
@[simp] theorem raiseError_unit_kept (s : State) (e : DecodeError) :
    (raiseError e s).unit.b0 = s.unit.b0 ∧ (raiseError e s).unit.b1 = s.unit.b1 ∧
    (raiseError e s).unit.b2 = s.unit.b2 ∧ (raiseError e s).unit.cnt = s.unit.cnt ∧
    (raiseError e s).unit.s0 = s.unit.s0 ∧ (raiseError e s).unit.s1 = s.unit.s1 ∧
    (raiseError e s).unit.s2 = s.unit.s2 ∧ (raiseError e s).unit.s3 = s.unit.s3 ∧
    (raiseError e s).unit.q0 = s.unit.q0 ∧ (raiseError e s).unit.q1 = s.unit.q1 ∧
    (raiseError e s).unit.q2 = s.unit.q2 ∧ (raiseError e s).unit.q3 = s.unit.q3 ∧
    (raiseError e s).unit.k0 = s.unit.k0 ∧ (raiseError e s).unit.k1 = s.unit.k1 ∧
    (raiseError e s).unit.k2 = s.unit.k2 ∧ (raiseError e s).unit.k3 = s.unit.k3 ∧
    (raiseError e s).unit.e0 = s.unit.e0 ∧ (raiseError e s).unit.e1 = s.unit.e1 ∧
    (raiseError e s).unit.e2 = s.unit.e2 ∧ (raiseError e s).unit.e3 = s.unit.e3 ∧
    (raiseError e s).unit.v0 = s.unit.v0 ∧ (raiseError e s).unit.v1 = s.unit.v1 ∧
    (raiseError e s).unit.v2 = s.unit.v2 ∧ (raiseError e s).unit.v3 = s.unit.v3 ∧
    (raiseError e s).unit.gcw = s.unit.gcw ∧ (raiseError e s).unit.y0 = s.unit.y0 ∧
    (raiseError e s).unit.y1 = s.unit.y1 ∧ (raiseError e s).unit.y2 = s.unit.y2 ∧
    (raiseError e s).unit.gi = s.unit.gi ∧ (raiseError e s).unit.ng = s.unit.ng ∧
    (raiseError e s).unit.rem = s.unit.rem ∧ (raiseError e s).unit.phase = s.unit.phase ∧
    (raiseError e s).unit.cmd = s.unit.cmd ∧ (raiseError e s).unit.inLen = s.unit.inLen ∧
    (raiseError e s).unit.inBuf = s.unit.inBuf ∧ (raiseError e s).unit.cmdValid = s.unit.cmdValid ∧
    (raiseError e s).unit.portCmd = s.unit.portCmd ∧ (raiseError e s).unit.portInLen = s.unit.portInLen ∧
    (raiseError e s).unit.portIn = s.unit.portIn :=
  ⟨rfl, rfl, rfl, rfl, rfl, rfl, rfl, rfl, rfl, rfl, rfl, rfl, rfl, rfl, rfl, rfl, rfl, rfl, rfl, rfl, rfl, rfl,
    rfl, rfl, rfl, rfl, rfl, rfl, rfl, rfl, rfl, rfl, rfl, rfl, rfl, rfl, rfl, rfl, rfl⟩

/-- What the end of BUILD writes and leaves alone, table 0. -/
@[simp] theorem withTable_general (s : State) (t : Memory Entry) :
    (s.withTable t .general).lut0 = t ∧ (s.withTable t .general).lut1 = s.lut1 ∧
    (s.withTable t .general).lutValid0 = true ∧ (s.withTable t .general).lutValid1 = s.lutValid1 :=
  ⟨rfl, rfl, rfl, rfl⟩

/-- What the end of BUILD writes and leaves alone, table 1. -/
@[simp] theorem withTable_urlSafe (s : State) (t : Memory Entry) :
    (s.withTable t .urlSafe).lut0 = s.lut0 ∧ (s.withTable t .urlSafe).lut1 = t ∧
    (s.withTable t .urlSafe).lutValid0 = s.lutValid0 ∧ (s.withTable t .urlSafe).lutValid1 = true :=
  ⟨rfl, rfl, rfl, rfl⟩

/-- What the end of BUILD leaves alone, either table. -/
@[simp] theorem withTable_kept (s : State) (t : Memory Entry) (a : Asel) :
    (s.withTable t a).params = s.params ∧ (s.withTable t a).unit = s.unit ∧ (s.withTable t a).others = s.others ∧
    (s.withTable t a).events = s.events ∧ (s.withTable t a).freeCtr = s.freeCtr := by
  cases a <;> exact ⟨rfl, rfl, rfl, rfl, rfl⟩

/-- The table BUILD wrote is the one of its alphabet. -/
@[simp] theorem withTable_lut (s : State) (t : Memory Entry) (a : Asel) :
    (s.withTable t a).lut a = t ∧ (s.withTable t a).lutValid a = true := by
  cases a <;> exact ⟨rfl, rfl⟩

/-- The tables a state holds do not depend on its unit. -/
@[simp] theorem lut_withUnit (s : State) (u : UnitState) (a : Asel) :
    (s.withUnit u).lut a = s.lut a ∧ (s.withUnit u).lutValid a = s.lutValid a := by
  cases a <;> exact ⟨rfl, rfl⟩

/-- The tables a state holds do not depend on its events. -/
@[simp] theorem lut_withEvents (s : State) (es : List Event) (a : Asel) :
    (s.withEvents es).lut a = s.lut a ∧ (s.withEvents es).lutValid a = s.lutValid a := by
  cases a <;> exact ⟨rfl, rfl⟩

/-- Raising an error leaves the tables alone. -/
@[simp] theorem lut_raiseError (s : State) (e : DecodeError) (a : Asel) :
    (raiseError e s).lut a = s.lut a ∧ (raiseError e s).lutValid a = s.lutValid a := by
  cases a <;> exact ⟨rfl, rfl⟩

/-- After reset no table is valid and no cell of one has a value. -/
@[simp] theorem lut_applyReset (s : State) (a : Asel) :
    (applyReset s).lut a = [] ∧ (applyReset s).lutValid a = false := by
  cases a <;> exact ⟨rfl, rfl⟩

/-- What reset leaves of a unit: its ports and its input buffer (10_state.md R31). -/
@[simp] theorem onReset_kept (u : UnitState) (bs : List Byte) :
    (u.onReset bs).inBuf = u.inBuf ∧ (u.onReset bs).cmdValid = u.cmdValid ∧ (u.onReset bs).portCmd = u.portCmd ∧
    (u.onReset bs).portInLen = u.portInLen ∧ (u.onReset bs).portIn = u.portIn :=
  ⟨rfl, rfl, rfl, rfl, rfl⟩

/-- The reset values the spec states, of a unit (10_state.md R31). -/
@[simp] theorem onReset_written (u : UnitState) (bs : List Byte) :
    (u.onReset bs).state = .idle ∧ (u.onReset bs).err = none ∧ (u.onReset bs).outLen = 0 ∧
    (u.onReset bs).outBuf = resetOut u bs :=
  ⟨rfl, rfl, rfl, rfl⟩

end Sys2Proof.Machine
end

