-- ==== Sys2Proof/Laws/Ops.lean ====
section
/-! SUPPORT. One lemma for each shared operation that says once everything it can do. -/

namespace Sys2Proof.Machine

/-! ## Sequencing -/

/-- A chain answers a next value exactly when both its parts do. -/
theorem chain_eq_next {α β : Type} {o : Ans α} {f : α → Ans β} {b : β} :
    chain o f = .next b ↔ ∃ a, o = .next a ∧ f a = .next b := by
  cases o <;> simp [chain]

/-- A chain goes on with a next value. -/
@[simp] theorem chain_next {α β : Type} (a : α) (f : α → Ans β) : chain (.next a) f = f a := rfl

/-- A chain stops at a fault. -/
@[simp] theorem chain_fault {α β : Type} (r : Fault) (f : α → Ans β) : chain (.fault r) f = .fault r := rfl

/-- A chain stops at a refusal. -/
@[simp] theorem chain_refused {α β : Type} (r : Refusal) (f : α → Ans β) : chain (.refused r) f = .refused r := rfl

/-! ## Reads -/

/-- A read of `IN` answers a byte exactly when the index is below `IN_LEN` and the cell holds it (20_memory.md R34). -/
theorem readIn_eq_next {u : UnitState} {i : Nat} {b : Byte} :
    readIn u i = .next b ↔ i < u.inLen ∧ Memory.read u.inBuf i = some b := by
  unfold readIn
  split
  · split <;> simp_all
  · next h => exact ⟨nofun, fun hb => absurd hb.1 h⟩

/-- A substitution answers a character exactly when the alphabet has one at that index (41_encoder.md R82). -/
theorem substChar_eq_next {s : State} {x : Sextet} {c : Byte} :
    substChar s x = .next c ↔ (alphaOf s.params s.unit.asel)[x.toNat]? = some c := by
  unfold substChar
  split <;> simp_all

/-- With an alphabet of 64 characters a substitution "cannot fail" (41_encoder.md R82). -/
theorem substChar_of_alen {s : State} (x : Sextet) (h : alen s.params s.unit.asel = 64) :
    substChar s x = .next ((alphaOf s.params s.unit.asel).getD x.toNat 0#8) := by
  have hx : x.toNat < (alphaOf s.params s.unit.asel).length := by
    have := x.isLt; simp only [alen] at h; omega
  rw [substChar_eq_next, List.getD_eq_getElem?_getD, List.getElem?_eq_getElem hx]; rfl

/-- A lookup answers a byte exactly when the alphabet has 64 characters and the cell holds an entry of that layout
(42_decoder.md R92). -/
theorem readLut_eq_next {s : State} {c b : Byte} :
    readLut s c = .next b ↔ alen s.params s.unit.asel = 64 ∧
      ∃ e, Memory.read (s.lut s.unit.asel) c.toNat = some e ∧ Entry.layout e = some b := by
  unfold readLut
  split
  · simp_all
  · split
    · simp_all
    · split <;> simp_all

/-- The layout of an entry, by its tag (10_state.md R21). -/
theorem layout_eq_some {e : Entry} {b : Byte} :
    Entry.layout e = some b ↔
      (∃ v, e = .value v ∧ v < 64#8 ∧ b = v) ∨ (e = .padding ∧ b = 0x40#8) ∨ (e = .invalid ∧ b = 0x80#8) := by
  cases e with
  | value v =>
    by_cases h : v < 64#8
    · simpa only [Entry.layout, h, if_true, Option.some.injEq, Entry.value.injEq, reduceCtorEq, false_and, or_false,
        @eq_comm _ b] using ⟨fun e => ⟨v, rfl, h, e⟩, fun ⟨_, e, _, e'⟩ => e.trans e'⟩
    · simpa only [Entry.layout, h, if_false, Entry.value.injEq, reduceCtorEq, false_and, or_false, false_iff,
        not_exists] using fun w ⟨e, hw, _⟩ => h (e ▸ hw)
  | padding => simp [Entry.layout, @eq_comm _ b]
  | invalid => simp [Entry.layout, @eq_comm _ b]

/-! ## Commands -/

/-- What a presented ENCODE can do: be held, or be accepted (43_host_interface_and_variants.md R119). -/
theorem encodeCommand_eq_next {w : BitVec 4} {s t : State} (h : encodeCommand w s = .next t) :
    (s.unit.state = .busy ∧ t = s) ∨
    (s.unit.state ≠ .busy ∧ fitsLen s.params s.unit.portInLen ∧ fitsLen s.params (encodedLen s.unit.portInLen) ∧
      t = s.withUnit (s.unit.acceptEncode w)) := by
  unfold encodeCommand at h
  split at h
  · simp_all
  · split at h <;> simp_all

/-- What a presented DECODE can do: be held, or be accepted (43_host_interface_and_variants.md R119). -/
theorem decodeCommand_eq_next {a : Asel} {w : BitVec 4} {s t : State} (h : decodeCommand a w s = .next t) :
    ((s.unit.state = .busy ∨ s.lutValid a = false) ∧ t = s) ∨
    (s.unit.state ≠ .busy ∧ s.lutValid a = true ∧ alen s.params a = 64 ∧ fitsLen s.params s.unit.portInLen ∧
      fitsLen s.params (decodedLenMax s.unit.portInLen) ∧ t = s.withUnit (s.unit.acceptDecode w)) := by
  unfold decodeCommand at h
  split at h
  · simp_all
  · split at h
    · simp_all
    · split at h
      · simp_all
      · split at h <;> simp_all

/-- What BUILD can do: write its table, if the alphabet has 1 to 255 characters (40_table_build.md R70, R73). -/
theorem execBuild_eq_next {a : Asel} {s t : State} :
    execBuild a s = .next t ↔ (1 ≤ alen s.params a ∧ alen s.params a ≤ 255) ∧
      t = s.withTable (buildTable (alphaOf s.params a) s.params.pad) a := by
  unfold execBuild
  split
  · next h => simp [h, @eq_comm _ t]
  · next h => exact ⟨nofun, fun ht => absurd ht.1 h⟩

/-! ## The end of a command -/

/-- The check of `TRAIL_POLICY = REJECT` (42_decoder.md R102). -/
theorem trailCheck_cases (s : State) :
    (s.unit.gi + 1 < s.unit.ng ∧ trailCheck s = raiseError .badPadding s) ∨
    (s.unit.ng ≤ s.unit.gi + 1 ∧ trailCheck s = s.withUnit s.unit.finish) := by
  unfold trailCheck
  split
  · exact .inl ⟨‹_›, rfl⟩
  · exact .inr ⟨by omega, rfl⟩

/-- The end at a padded group: an error only under `REJECT` with groups left, else `DONE` (42_decoder.md R101, R102). -/
theorem terminate_cases (s : State) :
    (s.params.trail = .reject ∧ s.unit.gi + 1 < s.unit.ng ∧ terminate s = raiseError .badPadding s) ∨
    ((s.params.trail = .ignore ∨ s.unit.ng ≤ s.unit.gi + 1) ∧ terminate s = s.withUnit s.unit.finish) := by
  unfold terminate
  split
  · exact .inr ⟨.inl ‹_›, rfl⟩
  · next h =>
    rcases trailCheck_cases s with ⟨h1, h2⟩ | ⟨h1, h2⟩
    · exact .inl ⟨h, h1, h2⟩
    · exact .inr ⟨.inr h1, h2⟩

/-- `DEC.LEN`: an error, or `NG` (42_decoder.md R90). -/
theorem execDecLen_cases (s : State) :
    (s.unit.inLen % 4 ≠ 0 ∧ execDecLen s = .next (raiseError .badFormat s)) ∨
    (s.unit.inLen % 4 = 0 ∧
      execDecLen s = .next (s.withUnit { s.unit with ng := s.unit.inLen / 4, phase := .groups })) := by
  unfold execDecLen
  split
  · exact .inl ⟨‹_›, rfl⟩
  · exact .inr ⟨by omega, rfl⟩

/-- `DEC.END` is taken exactly when the command runs and no group is left (42_decoder.md R103). -/
theorem endIfComplete_cases (s : State) :
    (s.unit.state = .busy ∧ s.unit.ng ≤ s.unit.gi ∧ endIfComplete s = .next (s.withUnit s.unit.finish)) ∨
    ((s.unit.state ≠ .busy ∨ s.unit.gi < s.unit.ng) ∧ endIfComplete s = .next s) := by
  unfold endIfComplete
  split
  · next h => exact .inl ⟨h.1, h.2, rfl⟩
  · next h => refine .inr ⟨?_, rfl⟩; by_cases hb : s.unit.state = .busy <;> simp_all

/-! ## The group operations -/

/-- What `ENC.G3` needs and does (41_encoder.md R78). -/
theorem execEncG3_eq_next {s t : State} (h : execEncG3 s = .next t) :
    ∃ b0 b1 b2 c0 c1 c2 c3, readIn s.unit (3 * s.unit.gi) = .next b0 ∧ readIn s.unit (3 * s.unit.gi + 1) = .next b1 ∧
      readIn s.unit (3 * s.unit.gi + 2) = .next b2 ∧ substChar s (sextet0 b0) = .next c0 ∧
      substChar s (sextet1 b0 b1) = .next c1 ∧ substChar s (sextet2 b1 b2) = .next c2 ∧
      substChar s (sextet3 b2) = .next c3 ∧
      t = s.withUnit ((s.unit.withRaw3 b0 b1 b2).withQ c0 c1 c2 c3).emit := by
  simp only [execEncG3, chain_eq_next] at h
  obtain ⟨b0, h0, b1, h1, b2, h2, c0, e0, c1, e1, c2, e2, c3, e3, ht⟩ := h
  exact ⟨b0, b1, b2, c0, c1, c2, c3, h0, h1, h2, e0, e1, e2, e3, by simpa [eq_comm] using ht⟩

/-- What `ENC.T2` needs and does (41_encoder.md R80). -/
theorem execEncT2_eq_next {s t : State} (h : execEncT2 s = .next t) :
    ∃ b0 b1 c0 c1 c2, readIn s.unit (3 * s.unit.ng) = .next b0 ∧ readIn s.unit (3 * s.unit.ng + 1) = .next b1 ∧
      substChar s (sextet0 b0) = .next c0 ∧ substChar s (sextet1 b0 b1) = .next c1 ∧
      substChar s (sextet2Tail b1) = .next c2 ∧
      t = s.withUnit ((s.unit.withRaw2 b0 b1).withQ c0 c1 c2 s.params.pad).emit := by
  simp only [execEncT2, chain_eq_next] at h
  obtain ⟨b0, h0, b1, h1, c0, e0, c1, e1, c2, e2, ht⟩ := h
  exact ⟨b0, b1, c0, c1, c2, h0, h1, e0, e1, e2, by simpa [eq_comm] using ht⟩

/-- What `ENC.T1` needs and does (41_encoder.md R79). -/
theorem execEncT1_eq_next {s t : State} (h : execEncT1 s = .next t) :
    ∃ b0 c0 c1, readIn s.unit (3 * s.unit.ng) = .next b0 ∧ substChar s (sextet0 b0) = .next c0 ∧
      substChar s (sextet1Tail b0) = .next c1 ∧
      t = s.withUnit ((s.unit.withRaw1 b0).withQ c0 c1 s.params.pad s.params.pad).emit := by
  simp only [execEncT1, chain_eq_next] at h
  obtain ⟨b0, h0, c0, e0, c1, e1, ht⟩ := h
  exact ⟨b0, c0, c1, h0, e0, e1, by simpa [eq_comm] using ht⟩

/-- What `SUBST` needs and does (41_encoder.md R82). -/
theorem execSubst_eq_next {q : Pos} {x : Sextet} {s t : State} (h : execSubst q x s = .next t) :
    ∃ c, substChar s x = .next c ∧ t = s.withUnit (s.unit.withQAt q c) := by
  simp only [execSubst, chain_eq_next] at h
  obtain ⟨c, hc, ht⟩ := h
  exact ⟨c, hc, by simpa [eq_comm] using ht⟩

/-- What `DEC.FETCH` needs and does (42_decoder.md R91). -/
theorem execDecFetch_eq_next {s t : State} (h : execDecFetch s = .next t) :
    ∃ c0 c1 c2 c3, readIn s.unit (4 * s.unit.gi) = .next c0 ∧ readIn s.unit (4 * s.unit.gi + 1) = .next c1 ∧
      readIn s.unit (4 * s.unit.gi + 2) = .next c2 ∧ readIn s.unit (4 * s.unit.gi + 3) = .next c3 ∧
      t = s.withUnit { s.unit with k0 := c0, k1 := c1, k2 := c2, k3 := c3 } := by
  simp only [execDecFetch, chain_eq_next] at h
  obtain ⟨c0, h0, c1, h1, c2, h2, c3, h3, ht⟩ := h
  exact ⟨c0, c1, c2, c3, h0, h1, h2, h3, by simpa [eq_comm] using ht⟩

/-- What `DEC.LOOKUP` needs and does (42_decoder.md R92). -/
theorem execDecLookup_eq_next {s t : State} (h : execDecLookup s = .next t) :
    ∃ e0 e1 e2 e3, readLut s s.unit.k0 = .next e0 ∧ readLut s s.unit.k1 = .next e1 ∧
      readLut s s.unit.k2 = .next e2 ∧ readLut s s.unit.k3 = .next e3 ∧
      t = s.withUnit (s.unit.withEntries e0 e1 e2 e3) := by
  simp only [execDecLookup, chain_eq_next] at h
  obtain ⟨e0, h0, e1, h1, e2, h2, e3, h3, ht⟩ := h
  exact ⟨e0, e1, e2, e3, h0, h1, h2, h3, by simpa [eq_comm] using ht⟩

end Sys2Proof.Machine
end

