-- ==== Sys2Proof/Laws/PerInstr.lean ====
section
/-! SUPPORT. Per-instruction laws about the instructions as syntax: the encoder's word of each is the row's own match
under the row's mask, as spec/opcode_table.json gives them. -/

namespace Sys2Proof.Laws.TableRow

/-- The format, match and mask of each row of spec/opcode_table.json; none for the rows of format NONE. -/
def tableRow : Instr → Option (Format × Nat × Nat)
  | .encode _ => some (.cmd4, 0x0, 0xD)
  | .decode _ => some (.cmd4, 0x1, 0xD)
  | .b64encode => some (.cmd4, 0x0, 0xF)
  | .b64decode => some (.cmd4, 0x1, 0xF)
  | .reservedBase16 _ _ => some (.cmd4, 0x4, 0xC)
  | .reservedBase32 _ _ => some (.cmd4, 0x8, 0xC)
  | .reservedBase3 _ _ => some (.cmd4, 0xC, 0xC)
  | .build _ => none
  | .encG3 => some (.cnt2, 0x3, 0x3)
  | .encT1 => some (.cnt2, 0x1, 0x3)
  | .encT2 => some (.cnt2, 0x2, 0x3)
  | .encT0 => some (.cnt2, 0x0, 0x3)
  | .subst _ _ => none
  | .decBadcharP0 _ => some (.gcw8, 0x80, 0x80)
  | .decBadcharP1 _ => some (.gcw8, 0x40, 0xC0)
  | .decBadcharP2 _ => some (.gcw8, 0x20, 0xE0)
  | .decBadcharP3 _ => some (.gcw8, 0x10, 0xF0)
  | .decFull => some (.gcw8, 0x00, 0xFF)
  | .decTail2 => some (.gcw8, 0x01, 0xFF)
  | .decTail1 => some (.gcw8, 0x03, 0xFF)
  | .decBadpadP2 => some (.gcw8, 0x02, 0xFF)
  | .decBadpadP1 _ => some (.gcw8, 0x04, 0xFC)
  | .decBadpadP0 _ => some (.gcw8, 0x08, 0xF8)
  | .decLen => none
  | .decFetch => none
  | .decLookup => none
  | .decClassify => none
  | .decTerm => none
  | .decTrail => none
  | .decEnd => none

/-- Whether a word agrees with a row: the same format, and the row's match under the row's mask; no word for no row. -/
def agrees : Option (Format × Nat) → Option (Format × Nat × Nat) → Bool
  | some (f, w), some (g, pattern, mask) => f == g && w &&& mask == pattern
  | none, none => true
  | some _, none => false
  | none, some _ => false

/-- An instruction has a word exactly when its row has an encoding; the word is of the row's format and equals the row's
match under the row's mask. -/
abbrev Statement (i : Instr) : Prop := agrees (Sys2Proof.encode i) (tableRow i) = true

theorem encode (a : Asel) : Statement (.encode a) := by cases a <;> decide

theorem decode (a : Asel) : Statement (.decode a) := by cases a <;> decide

theorem b64encode : Statement .b64encode := by decide

theorem b64decode : Statement .b64decode := by decide

theorem reservedBase16 (a : Asel) (op : BitVec 1) : Statement (.reservedBase16 a op) := by
  cases a <;> revert op <;> decide

theorem reservedBase32 (a : Asel) (op : BitVec 1) : Statement (.reservedBase32 a op) := by
  cases a <;> revert op <;> decide

theorem reservedBase3 (a : Asel) (op : BitVec 1) : Statement (.reservedBase3 a op) := by
  cases a <;> revert op <;> decide

theorem build (a : Asel) : Statement (.build a) := rfl

theorem encG3 : Statement .encG3 := by decide

theorem encT1 : Statement .encT1 := by decide

theorem encT2 : Statement .encT2 := by decide

theorem encT0 : Statement .encT0 := by decide

theorem subst (q : Pos) (x : Sextet) : Statement (.subst q x) := rfl

theorem decBadcharP0 (r : BitVec 7) : Statement (.decBadcharP0 r) := by revert r; decide

theorem decBadcharP1 (r : BitVec 6) : Statement (.decBadcharP1 r) := by revert r; decide

theorem decBadcharP2 (r : BitVec 5) : Statement (.decBadcharP2 r) := by revert r; decide

theorem decBadcharP3 (r : BitVec 4) : Statement (.decBadcharP3 r) := by revert r; decide

theorem decFull : Statement .decFull := by decide

theorem decTail2 : Statement .decTail2 := by decide

theorem decTail1 : Statement .decTail1 := by decide

theorem decBadpadP2 : Statement .decBadpadP2 := by decide

theorem decBadpadP1 (r : BitVec 2) : Statement (.decBadpadP1 r) := by revert r; decide

theorem decBadpadP0 (r : BitVec 3) : Statement (.decBadpadP0 r) := by revert r; decide

theorem decLen : Statement .decLen := by decide

theorem decFetch : Statement .decFetch := by decide

theorem decLookup : Statement .decLookup := by decide

theorem decClassify : Statement .decClassify := by decide

theorem decTerm : Statement .decTerm := by decide

theorem decTrail : Statement .decTrail := by decide

theorem decEnd : Statement .decEnd := by decide

end Sys2Proof.Laws.TableRow
end

