-- ==== Sys2Proof/Laws/Step.lean ====
section
/-! SUPPORT. What a step can do, said once: the inversion of the unit's step and of the machine's step, from which every
invariant follows by cases. -/

namespace Sys2Proof.Machine

/-- The unit after fetch, lookup and classify of a text group (42_decoder.md R91 to R93). -/
def UnitState.withGroup (u : UnitState) (c0 c1 c2 c3 e0 e1 e2 e3 : Byte) : UnitState :=
  { u with
    k0 := c0, k1 := c1, k2 := c2, k3 := c3
    e0 := e0, e1 := e1, e2 := e2, e3 := e3
    v0 := entryVal e0, v1 := entryVal e1, v2 := entryVal e2, v3 := entryVal e3
    gcw := gcwOf e0 e1 e2 e3 }

/-- What a command word that the unit runs can be: an ENCODE or a DECODE (30_encoding.md R60). -/
theorem decodeCmd_cases (w : BitVec 4) :
    (cmdBase w = 0#2 ∧ cmdOp w = 0#1 ∧ decodeCmd w = .encode (cmdAsel w) ∧ cmdWord 0#2 (cmdAsel w) 0#1 = w) ∨
    (cmdBase w = 0#2 ∧ cmdOp w = 1#1 ∧ decodeCmd w = .decode (cmdAsel w) ∧ cmdWord 0#2 (cmdAsel w) 1#1 = w) ∨
    (cmdBase w ≠ 0#2 ∧ ∀ s, ∃ r, exec (decodeCmd w) s = .refused r) := by
  have h : ∀ w : BitVec 4,
      (cmdBase w = 0#2 ∧ cmdOp w = 0#1 ∧ decodeCmd w = .encode (cmdAsel w) ∧ cmdWord 0#2 (cmdAsel w) 0#1 = w) ∨
      (cmdBase w = 0#2 ∧ cmdOp w = 1#1 ∧ decodeCmd w = .decode (cmdAsel w) ∧ cmdWord 0#2 (cmdAsel w) 1#1 = w) ∨
      (cmdBase w ≠ 0#2 ∧ (decodeCmd w = .reservedBase16 (cmdAsel w) (cmdOp w) ∨
        decodeCmd w = .reservedBase32 (cmdAsel w) (cmdOp w) ∨ decodeCmd w = .reservedBase3 (cmdAsel w) (cmdOp w))) := by
    decide
  rcases h w with h | h | ⟨h, h'⟩
  · exact .inl h
  · exact .inr (.inl h)
  · refine .inr (.inr ⟨h, fun s => ?_⟩)
    rcases h' with h' | h' | h' <;> rw [h'] <;> exact ⟨_, rfl⟩

/-- What one text group can do to a running DECODE, once its entries are read: the class of `GCW` decides
(42_decoder.md R89). -/
inductive GroupResult (s : State) : State → Prop
  /-- An `Invalid` entry (R97). -/
  | badCharacter (g : instrClass (decodeGcw s.unit.gcw) = some .badChar) : GroupResult s (raiseError .badCharacter s)
  /-- An illegal padding shape (R98 to R100). -/
  | badPadding (g : instrClass (decodeGcw s.unit.gcw) = some .badPad) : GroupResult s (raiseError .badPadding s)
  /-- A full group, with others to come (R94). -/
  | full (g : instrClass (decodeGcw s.unit.gcw) = some .full) (h : s.unit.state = .busy → s.unit.gi + 1 < s.unit.ng) :
      GroupResult s (s.withUnit s.unit.decFull)
  /-- The last group, full (R94, R103). -/
  | fullLast (g : instrClass (decodeGcw s.unit.gcw) = some .full) (hb : s.unit.state = .busy)
      (h : s.unit.ng ≤ s.unit.gi + 1) : GroupResult s (s.withUnit s.unit.decFull.finish)
  /-- A one-pad group that ends the command (R95, R101). -/
  | tail2 (g : instrClass (decodeGcw s.unit.gcw) = some .tail2)
      (h : s.params.trail = .ignore ∨ s.unit.ng ≤ s.unit.gi + 1) : GroupResult s (s.withUnit s.unit.decTail2.finish)
  /-- A two-pad group that ends the command (R96, R101). -/
  | tail1 (g : instrClass (decodeGcw s.unit.gcw) = some .tail1)
      (h : s.params.trail = .ignore ∨ s.unit.ng ≤ s.unit.gi + 1) : GroupResult s (s.withUnit s.unit.decTail1.finish)
  /-- A one-pad group with groups after it, under `REJECT` (R102). -/
  | trailing2 (g : instrClass (decodeGcw s.unit.gcw) = some .tail2) (hp : s.params.trail = .reject)
      (h : s.unit.gi + 1 < s.unit.ng) : GroupResult s (raiseError .badPadding (s.withUnit s.unit.decTail2))
  /-- A two-pad group with groups after it, under `REJECT` (R102). -/
  | trailing1 (g : instrClass (decodeGcw s.unit.gcw) = some .tail1) (hp : s.params.trail = .reject)
      (h : s.unit.gi + 1 < s.unit.ng) : GroupResult s (raiseError .badPadding (s.withUnit s.unit.decTail1))

/-- The action of a class and the end that may follow it. -/
theorem classAction_eq_next {s t : State} (h : chain (exec (decodeGcw s.unit.gcw) s) endIfComplete = .next t) :
    GroupResult s t := by
  have raised : ∀ e v, endIfComplete (raiseError e v) = .next (raiseError e v) := by
    intro e v; simp [endIfComplete]
  have taken : ∀ e, exec (decodeGcw s.unit.gcw) s = .next (raiseError e s) → t = raiseError e s := by
    intro e he; rw [he, chain_next, raised] at h; cases h; rfl
  have finished : ∀ v : UnitState, endIfComplete (s.withUnit v.finish) = .next (s.withUnit v.finish) := by
    intro v; simp [endIfComplete]
  cases hi : decodeGcw s.unit.gcw with
  | decFull =>
    rw [hi] at h
    simp only [exec, execDecFull, chain_next] at h
    rcases endIfComplete_cases (s.withUnit s.unit.decFull) with ⟨h1, h2, h3⟩ | ⟨h1, h3⟩
    · rw [h3] at h; simp at h1 h2 h; subst h
      exact .fullLast (by rw [hi]; rfl) h1 h2
    · rw [h3] at h; simp at h1 h; subst h
      exact .full (by rw [hi]; rfl) fun hb => by simpa [hb] using h1
  | decTail2 =>
    rw [hi] at h
    simp only [exec, execDecTail2, chain_next] at h
    rcases terminate_cases (s.withUnit s.unit.decTail2) with ⟨h1, h2, h3⟩ | ⟨h1, h3⟩
    · rw [h3, raised] at h; cases h; exact .trailing2 (by rw [hi]; rfl) h1 (by simpa using h2)
    · rw [h3] at h
      have h := (finished s.unit.decTail2).symm.trans h
      cases h; exact .tail2 (by rw [hi]; rfl) (by simpa using h1)
  | decTail1 =>
    rw [hi] at h
    simp only [exec, execDecTail1, chain_next] at h
    rcases terminate_cases (s.withUnit s.unit.decTail1) with ⟨h1, h2, h3⟩ | ⟨h1, h3⟩
    · rw [h3, raised] at h; cases h; exact .trailing1 (by rw [hi]; rfl) h1 (by simpa using h2)
    · rw [h3] at h
      have h := (finished s.unit.decTail1).symm.trans h
      cases h; exact .tail1 (by rw [hi]; rfl) (by simpa using h1)
  | decBadcharP0 r =>
    rw [taken .badCharacter (by rw [hi]; rfl)]
    exact .badCharacter (by rw [hi]; rfl)
  | decBadcharP1 r =>
    rw [taken .badCharacter (by rw [hi]; rfl)]
    exact .badCharacter (by rw [hi]; rfl)
  | decBadcharP2 r =>
    rw [taken .badCharacter (by rw [hi]; rfl)]
    exact .badCharacter (by rw [hi]; rfl)
  | decBadcharP3 r =>
    rw [taken .badCharacter (by rw [hi]; rfl)]
    exact .badCharacter (by rw [hi]; rfl)
  | decBadpadP0 r =>
    rw [taken .badPadding (by rw [hi]; rfl)]
    exact .badPadding (by rw [hi]; rfl)
  | decBadpadP1 r =>
    rw [taken .badPadding (by rw [hi]; rfl)]
    exact .badPadding (by rw [hi]; rfl)
  | decBadpadP2 =>
    rw [taken .badPadding (by rw [hi]; rfl)]
    exact .badPadding (by rw [hi]; rfl)
  | _ =>
    exfalso
    have hc : ∀ g : BitVec 8, (instrClass (decodeGcw g)).isSome = true := by decide
    have := hc s.unit.gcw
    rw [hi] at this
    simp [instrClass] at this

/-- What a step of the unit in focus can do (43_host_interface_and_variants.md R123). -/
inductive UnitStep (s : State) : State → Prop
  /-- No command, or a DECODE held for its table (R119). -/
  | stay (hb : s.unit.state ≠ .busy) : UnitStep s s
  /-- Acceptance of an ENCODE (R119, 41_encoder.md R77). -/
  | acceptEncode (hb : s.unit.state ≠ .busy) (hv : s.unit.cmdValid = true) (hbase : cmdBase s.unit.portCmd = 0#2)
      (hop : cmdOp s.unit.portCmd = 0#1) : UnitStep s (s.withUnit (s.unit.acceptEncode s.unit.portCmd))
  /-- Acceptance of a DECODE (R119, 42_decoder.md R89). -/
  | acceptDecode (hb : s.unit.state ≠ .busy) (hv : s.unit.cmdValid = true) (hbase : cmdBase s.unit.portCmd = 0#2)
      (hop : cmdOp s.unit.portCmd = 1#1) (hl : s.lutValid (cmdAsel s.unit.portCmd) = true)
      (ha : alen s.params (cmdAsel s.unit.portCmd) = 64) : UnitStep s (s.withUnit (s.unit.acceptDecode s.unit.portCmd))
  /-- A full raw group (41_encoder.md R78). -/
  | rawGroup (hb : s.unit.state = .busy) (hop : cmdOp s.unit.cmd = 0#1) (hg : s.unit.gi < s.unit.ng)
      {b0 b1 b2 c0 c1 c2 c3 : Byte} (r0 : readIn s.unit (3 * s.unit.gi) = .next b0)
      (r1 : readIn s.unit (3 * s.unit.gi + 1) = .next b1) (r2 : readIn s.unit (3 * s.unit.gi + 2) = .next b2)
      (q0 : substChar s (sextet0 b0) = .next c0) (q1 : substChar s (sextet1 b0 b1) = .next c1)
      (q2 : substChar s (sextet2 b1 b2) = .next c2) (q3 : substChar s (sextet3 b2) = .next c3) :
      UnitStep s (s.withUnit (((s.unit.withCnt 3#2).withRaw3 b0 b1 b2).withQ c0 c1 c2 c3).emit.nextGroup)
  /-- The end of an ENCODE with nothing left over (41_encoder.md R81). -/
  | tail0 (hb : s.unit.state = .busy) (hop : cmdOp s.unit.cmd = 0#1) (hg : s.unit.ng ≤ s.unit.gi)
      (hr : s.unit.rem = 0#2) : UnitStep s (s.withUnit (s.unit.withCnt s.unit.rem).finish)
  /-- The end of an ENCODE with one byte left over (41_encoder.md R79). -/
  | tail1 (hb : s.unit.state = .busy) (hop : cmdOp s.unit.cmd = 0#1) (hg : s.unit.ng ≤ s.unit.gi)
      (hr : s.unit.rem = 1#2) {b0 c0 c1 : Byte} (r0 : readIn s.unit (3 * s.unit.ng) = .next b0)
      (q0 : substChar s (sextet0 b0) = .next c0) (q1 : substChar s (sextet1Tail b0) = .next c1) :
      UnitStep s (s.withUnit
        (((s.unit.withCnt s.unit.rem).withRaw1 b0).withQ c0 c1 s.params.pad s.params.pad).emit.finish)
  /-- The end of an ENCODE with two bytes left over (41_encoder.md R80). -/
  | tail2 (hb : s.unit.state = .busy) (hop : cmdOp s.unit.cmd = 0#1) (hg : s.unit.ng ≤ s.unit.gi)
      (hr : s.unit.rem = 2#2) {b0 b1 c0 c1 c2 : Byte} (r0 : readIn s.unit (3 * s.unit.ng) = .next b0)
      (r1 : readIn s.unit (3 * s.unit.ng + 1) = .next b1) (q0 : substChar s (sextet0 b0) = .next c0)
      (q1 : substChar s (sextet1 b0 b1) = .next c1) (q2 : substChar s (sextet2Tail b1) = .next c2) :
      UnitStep s (s.withUnit (((s.unit.withCnt s.unit.rem).withRaw2 b0 b1).withQ c0 c1 c2 s.params.pad).emit.finish)
  /-- `REM = 3`, which no acceptance sets: a full group instead of a tail, then the end. -/
  | tail3 (hb : s.unit.state = .busy) (hop : cmdOp s.unit.cmd = 0#1) (hg : s.unit.ng ≤ s.unit.gi)
      (hr : s.unit.rem = 3#2) {b0 b1 b2 c0 c1 c2 c3 : Byte} :
      UnitStep s (s.withUnit (((s.unit.withCnt s.unit.rem).withRaw3 b0 b1 b2).withQ c0 c1 c2 c3).emit.finish)
  /-- `DEC.LEN` fails (42_decoder.md R90). -/
  | badLength (hb : s.unit.state = .busy) (hop : cmdOp s.unit.cmd = 1#1) (hp : s.unit.phase = .lengthCheck)
      (hm : s.unit.inLen % 4 ≠ 0) : UnitStep s (raiseError .badFormat s)
  /-- `DEC.LEN` passes and there are groups (42_decoder.md R90). -/
  | goodLength (hb : s.unit.state = .busy) (hop : cmdOp s.unit.cmd = 1#1) (hp : s.unit.phase = .lengthCheck)
      (hm : s.unit.inLen % 4 = 0) (hn : s.unit.gi < s.unit.inLen / 4) :
      UnitStep s (s.withUnit { s.unit with ng := s.unit.inLen / 4, phase := .groups })
  /-- `DEC.LEN` passes and there is no group (42_decoder.md R104). -/
  | emptyInput (hb : s.unit.state = .busy) (hop : cmdOp s.unit.cmd = 1#1) (hp : s.unit.phase = .lengthCheck)
      (hm : s.unit.inLen % 4 = 0) (hn : s.unit.inLen / 4 ≤ s.unit.gi) :
      UnitStep s (s.withUnit { s.unit with ng := s.unit.inLen / 4, phase := .groups }.finish)
  /-- A text group (42_decoder.md R89). -/
  | textGroup (hb : s.unit.state = .busy) (hop : cmdOp s.unit.cmd = 1#1) (hp : s.unit.phase = .groups)
      (hg : s.unit.gi < s.unit.ng) {c0 c1 c2 c3 e0 e1 e2 e3 : Byte} {t : State}
      (r0 : readIn s.unit (4 * s.unit.gi) = .next c0) (r1 : readIn s.unit (4 * s.unit.gi + 1) = .next c1)
      (r2 : readIn s.unit (4 * s.unit.gi + 2) = .next c2) (r3 : readIn s.unit (4 * s.unit.gi + 3) = .next c3)
      (l0 : readLut s c0 = .next e0) (l1 : readLut s c1 = .next e1) (l2 : readLut s c2 = .next e2)
      (l3 : readLut s c3 = .next e3)
      (hr : GroupResult (s.withUnit (s.unit.withGroup c0 c1 c2 c3 e0 e1 e2 e3)) t) : UnitStep s t
  /-- A running DECODE with no group left, which no step leaves behind. -/
  | noGroup (hb : s.unit.state = .busy) (hop : cmdOp s.unit.cmd = 1#1) (hp : s.unit.phase = .groups)
      (hg : s.unit.ng ≤ s.unit.gi) : UnitStep s (s.withUnit s.unit.finish)

/-- A substitution depends on the unit's command only. -/
theorem substChar_withUnit (s : State) {u : UnitState} (h : u.cmd = s.unit.cmd) (x : Sextet) :
    substChar (s.withUnit u) x = substChar s x := by
  simp [substChar, UnitState.asel, h]

/-- A lookup depends on the unit's command only. -/
theorem readLut_withUnit (s : State) {u : UnitState} (h : u.cmd = s.unit.cmd) (c : Byte) :
    readLut (s.withUnit u) c = readLut s c := by
  have ha : (s.withUnit u).unit.asel = s.unit.asel := by simp [UnitState.asel, h]
  unfold readLut
  rw [ha, (lut_withUnit s u s.unit.asel).1]
  rfl

/-- A read of `IN` depends on the unit's input buffer and length only. -/
theorem readIn_congr {u v : UnitState} (hl : v.inLen = u.inLen) (hb : v.inBuf = u.inBuf) (i : Nat) :
    readIn v i = readIn u i := by
  simp [readIn, hl, hb]

/-- A step of a running ENCODE is one of those listed. -/
theorem encodeTurn_eq_next {s t : State} (hb : s.unit.state = .busy) (hop : cmdOp s.unit.cmd = 0#1)
    (h : encodeTurn s = .next t) : UnitStep s t := by
  have hw : ∀ (c : BitVec 2) x, substChar (s.withUnit (s.unit.withCnt c)) x = substChar s x :=
    fun c x => substChar_withUnit s (by simp) x
  have hi : ∀ (c : BitVec 2) i, readIn (s.unit.withCnt c) i = readIn s.unit i :=
    fun c i => readIn_congr (by simp) (by simp) i
  unfold encodeTurn at h
  split at h
  · next hg =>
    obtain ⟨v, hv, ht⟩ := chain_eq_next.1 h
    rw [show decodeCnt 3#2 = .encG3 from rfl] at hv
    obtain ⟨b0, b1, b2, c0, c1, c2, c3, r0, r1, r2, q0, q1, q2, q3, rfl⟩ := execEncG3_eq_next hv
    simp only [hw, hi, withUnit_written, withCnt_kept] at r0 r1 r2 q0 q1 q2 q3
    cases ht
    exact .rawGroup hb hop hg r0 r1 r2 q0 q1 q2 q3
  · next hg =>
    have hg : s.unit.ng ≤ s.unit.gi := by omega
    obtain ⟨v, hv, ht⟩ := chain_eq_next.1 h
    have hc : ∀ c : BitVec 2, c = 0#2 ∨ c = 1#2 ∨ c = 2#2 ∨ c = 3#2 := by decide
    rcases hc s.unit.rem with hr | hr | hr | hr
    · rw [show decodeCnt s.unit.rem = .encT0 by rw [hr]; rfl] at hv
      cases hv; cases ht
      exact .tail0 hb hop hg hr
    · rw [show decodeCnt s.unit.rem = .encT1 by rw [hr]; rfl] at hv
      obtain ⟨b0, c0, c1, r0, q0, q1, rfl⟩ := execEncT1_eq_next hv
      simp only [hw, hi, withUnit_written, withCnt_kept] at r0 q0 q1
      cases ht
      exact .tail1 hb hop hg hr r0 q0 q1
    · rw [show decodeCnt s.unit.rem = .encT2 by rw [hr]; rfl] at hv
      obtain ⟨b0, b1, c0, c1, c2, r0, r1, q0, q1, q2, rfl⟩ := execEncT2_eq_next hv
      simp only [hw, hi, withUnit_written, withCnt_kept] at r0 r1 q0 q1 q2
      cases ht
      exact .tail2 hb hop hg hr r0 r1 q0 q1 q2
    · rw [show decodeCnt s.unit.rem = .encG3 by rw [hr]; rfl] at hv
      obtain ⟨b0, b1, b2, c0, c1, c2, c3, r0, r1, r2, q0, q1, q2, q3, rfl⟩ := execEncG3_eq_next hv
      cases ht
      exact .tail3 hb hop hg hr

/-- A step of a running DECODE is one of those listed. -/
theorem decodeTurn_eq_next {s t : State} (hb : s.unit.state = .busy) (hop : cmdOp s.unit.cmd = 1#1)
    (h : decodeTurn s = .next t) : UnitStep s t := by
  unfold decodeTurn at h
  split at h
  · next hp =>
    rcases execDecLen_cases s with ⟨hm, he⟩ | ⟨hm, he⟩
    · rw [show exec .decLen s = execDecLen s from rfl, he, chain_next] at h
      simp [endIfComplete] at h; subst h
      exact .badLength hb hop hp hm
    · rw [show exec .decLen s = execDecLen s from rfl, he, chain_next] at h
      rcases endIfComplete_cases (s.withUnit { s.unit with ng := s.unit.inLen / 4, phase := .groups }) with
        ⟨_, h2, h3⟩ | ⟨h2, h3⟩
      · rw [h3] at h; cases h; exact .emptyInput hb hop hp hm h2
      · rw [h3] at h; cases h; exact .goodLength hb hop hp hm (by simpa [hb] using h2)
  · next hp =>
    split at h
    · next hg =>
      obtain ⟨s1, h1, h⟩ := chain_eq_next.1 h
      obtain ⟨s2, h2, h⟩ := chain_eq_next.1 h
      obtain ⟨s3, h3, h⟩ := chain_eq_next.1 h
      obtain ⟨c0, c1, c2, c3, r0, r1, r2, r3, rfl⟩ := execDecFetch_eq_next h1
      obtain ⟨e0, e1, e2, e3, l0, l1, l2, l3, rfl⟩ := execDecLookup_eq_next h2
      have hw : ∀ c, readLut (s.withUnit { s.unit with k0 := c0, k1 := c1, k2 := c2, k3 := c3 }) c = readLut s c :=
        fun c => readLut_withUnit s rfl c
      simp only [hw, withUnit_written] at l0 l1 l2 l3
      cases h3
      exact .textGroup hb hop hp hg r0 r1 r2 r3 l0 l1 l2 l3 (classAction_eq_next h)
    · next hg =>
      rcases endIfComplete_cases s with ⟨_, h2, h3⟩ | ⟨h2, h3⟩
      · rw [h3] at h; cases h; exact .noGroup hb hop hp h2
      · simp [hb, hg] at h2

/-- Everything a step of the unit in focus can do. -/
theorem unitTurn_eq_next {s t : State} (h : unitTurn s = .next t) : UnitStep s t := by
  unfold unitTurn at h
  split at h
  · next hb =>
    split at h
    · next hop => exact encodeTurn_eq_next hb hop h
    · next hop =>
      have h1 : ∀ b : BitVec 1, b ≠ 0#1 → b = 1#1 := by decide
      exact decodeTurn_eq_next hb (h1 _ hop) h
  · next hb =>
    split at h
    · next hv =>
      rcases decodeCmd_cases s.unit.portCmd with ⟨hbase, hop, hd, hw⟩ | ⟨hbase, hop, hd, hw⟩ | ⟨_, hr⟩
      · rw [hd] at h
        rcases encodeCommand_eq_next h with ⟨hb', _⟩ | ⟨_, _, _, rfl⟩
        · exact absurd hb' hb
        · rw [hw]; exact .acceptEncode hb hv hbase hop
      · rw [hd] at h
        rcases decodeCommand_eq_next h with ⟨_, rfl⟩ | ⟨_, hl, ha, _, _, rfl⟩
        · exact .stay hb
        · rw [hw]; exact .acceptDecode hb hv hbase hop hl ha
      · obtain ⟨r, hr⟩ := hr s
        rw [hr] at h; cases h
    · cases h; exact .stay hb

/-- What a step of the machine can do: a step of the unit, a BUILD of a table that is not valid, a change of focus, a
command presented, a reset, or nothing; the events but for the one taken are kept
(43_host_interface_and_variants.md R123). -/
inductive MachineStep (s : State) : State → Prop
  | unit (es : List Event) {t : State} (h : UnitStep (s.withEvents es) t) : MachineStep s t
  | build (es : List Event) (a : Asel) (hv : s.lutValid a = false) (hn : 1 ≤ alen s.params a ∧ alen s.params a ≤ 255) :
      MachineStep s ((s.withEvents es).withTable (buildTable (alphaOf s.params a) s.params.pad) a)
  | rotate (es : List Event) : MachineStep s (s.withEvents es).rotate
  | present (es : List Event) (w : BitVec 4) (bs : List Byte) (hv : s.unit.cmdValid = false) :
      MachineStep s ((s.withEvents es).withUnit (s.unit.present w bs))
  | reset (es : List Event) (he : s.events = .reset :: es) : MachineStep s (applyReset (s.withEvents es))
  | nothing (es : List Event) : MachineStep s (s.withEvents es)

/-- Everything the default turn can do. -/
theorem defaultTurn_eq_next {s t : State} (h : defaultTurn s = .next t) : MachineStep s t := by
  have hs : s.withEvents s.events = s := rfl
  have built : ∀ a, s.lutValid a = false → execBuild a s = .next t → MachineStep s t := by
    intro a hv h
    obtain ⟨hn, rfl⟩ := execBuild_eq_next.1 h
    exact .build s.events a hv hn
  unfold defaultTurn at h
  split at h
  · exact .unit s.events (hs.symm ▸ unitTurn_eq_next h)
  · split at h
    · cases h; exact .rotate s.events
    · split at h
      · next hv => exact built .general hv h
      · split at h
        · next hv => exact built .urlSafe hv h
        · cases h; exact .nothing s.events

/-- Everything a step of the machine can do. -/
theorem step_eq_next {s t : State} (h : step s = .next t) : MachineStep s t := by
  unfold step agentTurn at h
  split at h
  · exact defaultTurn_eq_next h
  · next a es _ =>
    unfold builderTurn at h
    split at h
    · cases h; exact .nothing es
    · next hv =>
      obtain ⟨hn, rfl⟩ := execBuild_eq_next.1 h
      exact .build es a (by simpa using hv) hn
  · next es _ => exact .unit es (unitTurn_eq_next h)
  · next es _ => cases h; exact .rotate es
  · next w bs es _ =>
    split at h
    · exact defaultTurn_eq_next h
    · next hv => cases h; exact .present es w bs (by simpa using hv)
  · next es he => cases h; exact .reset es he

/-! ## Invariants of the units -/

/-- A step of the unit touches neither another unit, nor the parameters, the events or a table. -/
theorem UnitStep.frame {s t : State} (h : UnitStep s t) :
    t.others = s.others ∧ t.params = s.params ∧ t.events = s.events ∧ t.lut0 = s.lut0 ∧ t.lut1 = s.lut1 ∧
      t.lutValid0 = s.lutValid0 ∧ t.lutValid1 = s.lutValid1 := by
  cases h with
  | textGroup hb hop hp hg r0 r1 r2 r3 l0 l1 l2 l3 hr => cases hr <;> simp
  | _ => simp

/-- A change of focus makes no new unit. -/
theorem mem_rotate {s : State} {u : UnitState} (h : u ∈ s.rotate.unit :: s.rotate.others) : u ∈ s.unit :: s.others := by
  unfold State.rotate at h
  split at h
  · exact h
  · next v vs hv =>
    simp only [hv, List.mem_cons, List.mem_append, List.not_mem_nil, or_false] at h ⊢
    rcases h with h | h | h
    · exact .inr (.inl h)
    · exact .inr (.inr h)
    · exact .inl h

/-- Reset treats every other unit alike. -/
theorem mem_resetOthers {n : Nat} {us : List UnitState} {u : UnitState} (h : u ∈ resetOthers n us) :
    ∃ v ∈ us, ∃ bs, u = v.onReset bs := by
  induction us generalizing n with
  | nil => simp [resetOthers] at h
  | cons v vs ih =>
    simp only [resetOthers, List.mem_cons] at h
    rcases h with rfl | h
    · exact ⟨v, by simp, _, rfl⟩
    · obtain ⟨w, hw, bs, e⟩ := ih h
      exact ⟨w, by simp [hw], bs, e⟩

/-- The induction of every invariant that speaks of the units one by one: it is kept by a step of the unit, by the host
presenting a command, and by reset. -/
theorem forall_units_step {P : UnitState → Prop} {s t : State} (hs : ∀ u ∈ s.unit :: s.others, P u)
    (h : step s = .next t) (hU : ∀ s t, P s.unit → UnitStep s t → P t.unit) (hP : ∀ u w bs, P u → P (u.present w bs))
    (hR : ∀ u bs, P u → P (u.onReset bs)) : ∀ u ∈ t.unit :: t.others, P u := by
  cases step_eq_next h with
  | unit es h =>
    rw [h.frame.1]
    exact List.forall_mem_cons.2 ⟨hU (s.withEvents es) t (by simpa using hs s.unit (by simp)) h, fun u hu => hs u (by simpa using .inr hu)⟩
  | build es a hv hn => simpa using hs
  | rotate es => exact fun u hu => hs u (by simpa using mem_rotate hu)
  | present es w bs hv =>
    exact List.forall_mem_cons.2 ⟨hP _ _ _ (hs _ (by simp)), fun u hu => hs u (by simpa using .inr hu)⟩
  | reset es he =>
    refine List.forall_mem_cons.2 ⟨hR _ _ (hs _ (by simp)), fun u hu => ?_⟩
    obtain ⟨v, hv, bs, rfl⟩ := mem_resetOthers hu
    exact hR _ _ (hs _ (by simpa using .inr hv))
  | nothing es => simpa using hs

end Sys2Proof.Machine
end

