-- ==== Sys2Proof/Tests/Slice0.lean ====
section
/-! SUPPORT. Tests: well-formedness, words written out from the spec's encodings, one-step vectors of
95_test_vectors.md, and for each statement with hypotheses a concrete input that meets them. -/

namespace Sys2Proof.Tests

open Sys2Proof Sys2Proof.Machine Sys2Proof.Safety

-- One proof after another: checked side by side, their threads' stacks together pass the memory limit.
set_option Elab.async false

/-! ## Helpers -/

/-- Bytes from numbers. -/
def bytes (l : List Nat) : List Byte := l.map (BitVec.ofNat 8)

/-- The next state of an outcome. -/
def nextOf {α : Type} : Ans α → Option α
  | .next a => some a
  | .fault _ => none
  | .refused _ => none

/-- The fault of an outcome. -/
def faultOf {α : Type} : Ans α → Option Fault
  | .next _ => none
  | .fault r => some r
  | .refused _ => none

/-- The refusal of an outcome. -/
def refusalOf {α : Type} : Ans α → Option Refusal
  | .next _ => none
  | .fault _ => none
  | .refused r => some r

/-- An outcome whose next state passes a check is a next state that passes it. -/
theorem exists_next {α : Type} {o : Ans α} {p : α → Bool} (h : (nextOf o).any p = true) :
    ∃ t, o = .next t ∧ p t = true := by
  cases o with
  | next a => exact ⟨a, rfl, by simpa [nextOf] using h⟩
  | fault r => simp [nextOf] at h
  | refused r => simp [nextOf] at h

/-- The machine after reset and both BUILD steps (95_test_vectors.md section 3). -/
def ready : State := withTables State.reset

/-- A machine whose unit in focus has a command on its port. -/
def presenting (w : BitVec 4) (input : List Byte) : State := ready.withUnit (ready.unit.present w input)

/-- A unit that runs an ENCODE, `gi` groups done, with nothing in `OUT` to keep the state small. -/
def encUnit (w : BitVec 4) (input : List Byte) (gi : Nat) : UnitState :=
  { UnitState.reset with
    state := .busy
    cmd := w
    inLen := input.length
    inBuf := Memory.ofList input
    ng := input.length / 3
    rem := BitVec.ofNat 2 (input.length % 3)
    gi := gi }

/-- A machine whose unit runs an ENCODE. -/
def encoding (w : BitVec 4) (input : List Byte) (gi : Nat) : State := State.reset.withUnit (encUnit w input gi)

/-- A unit that runs a DECODE past its length check. -/
def decUnit (w : BitVec 4) (input : List Byte) (gi : Nat) : UnitState :=
  { UnitState.reset with
    state := .busy
    cmd := w
    inLen := input.length
    inBuf := Memory.ofList input
    ng := input.length / 4
    gi := gi }

/-- A machine whose unit runs a DECODE, both tables built. -/
def decoding (w : BitVec 4) (input : List Byte) (gi : Nat) : State := ready.withUnit (decUnit w input gi)

/-- A machine under `TRAIL_POLICY = REJECT`. -/
def rejecting (s : State) : State := { s with params := { s.params with trail := .reject } }

/-- A machine with `LEN_W` bits of length. -/
def withLenW (n : Nat) (s : State) : State := { s with params := { s.params with lenW := some n } }

/-- A machine with another general alphabet. -/
def withAlpha (alphabet : List Byte) (s : State) : State := { s with params := { s.params with alpha0 := alphabet } }

/-- A machine with one event to come. -/
def event (e : Event) (s : State) : State := s.withEvents [e]

/-- The characters of `OUT` after an outcome. -/
def outAfter (o : Ans State) : Option (List Byte) := (nextOf o).map fun t => t.unit.outBuf.values

/-- `STATE`, `ERR` and `OUT_LEN` after an outcome that is not a failed decode. -/
def statusAfter (o : Ans State) : Option (Status × Option DecodeError) := (nextOf o).map fun t => (t.unit.state, t.unit.err)

/-- A text group looked up: entries in the layout of 10_state.md R21. -/
def looked (s : State) (e0 e1 e2 e3 : Byte) : State := s.withUnit (s.unit.withEntries e0 e1 e2 e3)

/-! ## Well-formedness: each check refuses an ill-formed term (30_encoding.md R58) -/

/-- Position 0 `Invalid` and `Padding` at once. -/
theorem test_illformed_badcharP0 : Instr.wellFormed (.decBadcharP0 0b0001000#7) = false := by decide

/-- Position 1 `Invalid` and `Padding` at once. -/
theorem test_illformed_badcharP1 : Instr.wellFormed (.decBadcharP1 0b000100#6) = false := by decide

/-- Position 2 `Invalid` and `Padding` at once. -/
theorem test_illformed_badcharP2 : Instr.wellFormed (.decBadcharP2 0b00010#5) = false := by decide

/-- Position 3 `Invalid` and `Padding` at once. -/
theorem test_illformed_badcharP3 : Instr.wellFormed (.decBadcharP3 0b0001#4) = false := by decide

/-- The class of DV19, DV20 and P5 is well formed (95_test_vectors.md). -/
theorem test_wellformed_vectors :
    Instr.wellFormed (.decBadcharP3 0b0010#4) = true ∧ Instr.wellFormed (.decBadcharP2 0b00100#5) = true ∧
    Instr.wellFormed (.decBadcharP0 0b1000001#7) = true := by decide

/-! ## Words written out bit by bit -/

/-- The command map of 30_encoding.md R61. -/
theorem test_decode_commands :
    decodeWord .cmd4 0b0000 = .ok (.encode .general) ∧ decodeWord .cmd4 0b0010 = .ok (.encode .urlSafe) ∧
    decodeWord .cmd4 0b0001 = .ok (.decode .general) ∧ decodeWord .cmd4 0b0011 = .ok (.decode .urlSafe) := ⟨rfl, rfl, rfl, rfl⟩

/-- HV3, HV4 and HV5 (95_test_vectors.md section 2.7): base 16 encode, base 32 decode, base 3. -/
theorem test_decode_reserved :
    decodeWord .cmd4 0b0100 = .ok (.reservedBase16 .general 0#1) ∧
    decodeWord .cmd4 0b1001 = .ok (.reservedBase32 .general 1#1) ∧
    decodeWord .cmd4 0b1100 = .ok (.reservedBase3 .general 0#1) ∧
    decodeWord .cmd4 0b1111 = .ok (.reservedBase3 .urlSafe 1#1) := ⟨rfl, rfl, rfl, rfl⟩

/-- The wrappers' words are 0000 and 0001 (43_host_interface_and_variants.md R114, R115). -/
theorem test_encode_wrappers :
    encode .b64encode = some (.cmd4, 0b0000) ∧ encode .b64decode = some (.cmd4, 0b0001) ∧
    Instr.core .b64encode = .encode .general ∧ Instr.core .b64decode = .decode .general := by decide

/-- The four counts of 30_encoding.md R62. -/
theorem test_decode_counts :
    decodeWord .cnt2 0b11 = .ok .encG3 ∧ decodeWord .cnt2 0b01 = .ok .encT1 ∧
    decodeWord .cnt2 0b10 = .ok .encT2 ∧ decodeWord .cnt2 0b00 = .ok .encT0 := ⟨rfl, rfl, rfl, rfl⟩

/-- `GCW` of the vectors DV1, DV5, DV6, DV16, S11, DV15, DV13 and DV14. -/
theorem test_decode_shapes :
    decodeWord .gcw8 0b00000000 = .ok .decFull ∧ decodeWord .gcw8 0b00000001 = .ok .decTail2 ∧
    decodeWord .gcw8 0b00000011 = .ok .decTail1 ∧ decodeWord .gcw8 0b00000010 = .ok .decBadpadP2 ∧
    decodeWord .gcw8 0b00000100 = .ok (.decBadpadP1 0b00#2) ∧ decodeWord .gcw8 0b00000111 = .ok (.decBadpadP1 0b11#2) ∧
    decodeWord .gcw8 0b00001000 = .ok (.decBadpadP0 0b000#3) ∧
    decodeWord .gcw8 0b00001111 = .ok (.decBadpadP0 0b111#3) := ⟨rfl, rfl, rfl, rfl, rfl, rfl, rfl, rfl⟩

/-- `GCW` of the vectors DV17, S10, DV20, DV19 and DV21. -/
theorem test_decode_badchars :
    decodeWord .gcw8 0b10000001 = .ok (.decBadcharP0 0b0000001#7) ∧
    decodeWord .gcw8 0b01000000 = .ok (.decBadcharP1 0b000000#6) ∧
    decodeWord .gcw8 0b00100100 = .ok (.decBadcharP2 0b00100#5) ∧
    decodeWord .gcw8 0b00010010 = .ok (.decBadcharP3 0b0010#4) ∧
    decodeWord .gcw8 0b11110000 = .ok (.decBadcharP0 0b1110000#7) := ⟨rfl, rfl, rfl, rfl, rfl⟩

/-- A number beyond its format is rejected by name. -/
theorem test_decode_too_wide :
    decodeWord .cmd4 16 = .error .wordTooWide ∧ decodeWord .cnt2 4 = .error .wordTooWide ∧
    decodeWord .gcw8 256 = .error .wordTooWide := ⟨rfl, rfl, rfl⟩

/-- The host's table words: the bits of a row in whole bytes (log 21). -/
theorem test_table_words :
    decodeTableWord 8 0x01 = some (.decode .general) ∧ decodeTableWord 2 0b11 = some .encG3 ∧
    decodeTableWord 8 0x80 = some (.decBadcharP0 0#7) ∧ decodeTableWord 0 0 = none := by decide

/-! ## Reset, BUILD and the tables -/

/-- HV8: after reset `STATE = IDLE`, `ERR = 0`, `OUT_LEN = 0`, `LUT_VALID = 00`. -/
theorem test_reset_status :
    readStatus State.reset State.reset.unit =
      { cmdReady := false, state := 0b00#2, err := 0b00#2, outLen := 0, lutValid := 0b00#2 } := by decide

/-- TB1: cells of `BUILD 0` (95_test_vectors.md section 2.1), with `LUT_VALID[0]`. -/
theorem test_build_general :
    ((nextOf (exec (.build .general) State.reset)).map fun t =>
      ((bytes [0x41, 0x5A, 0x61, 0x7A, 0x30, 0x39, 0x2B, 0x2F, 0x3D, 0x2D, 0x00, 0xFF]).map fun c =>
        (Memory.read t.lut0 c.toNat).bind Entry.layout, t.lutValid0, t.lutValid1)) =
      some ((bytes [0x00, 0x19, 0x1A, 0x33, 0x34, 0x3D, 0x3E, 0x3F, 0x40, 0x80, 0x80, 0x80]).map some, true, false) := by
  decide +kernel

/-- TB2: cells of `BUILD 1`. -/
theorem test_build_urlSafe :
    ((nextOf (exec (.build .urlSafe) State.reset)).map fun t =>
      ((bytes [0x41, 0x2D, 0x5F, 0x2B, 0x2F, 0x3D]).map fun c =>
        (Memory.read t.lut1 c.toNat).bind Entry.layout, t.lutValid1)) =
      some ((bytes [0x00, 0x3E, 0x3F, 0x80, 0x80, 0x40]).map some, true) := by decide +kernel

/-- TB3: `A` at indices 0 and 1: the later index wins, `B` is no character any more. -/
theorem test_build_duplicate :
    Memory.read (buildTable (alphaGeneral.set 1 0x41#8) 0x3D#8) 0x41 = some (.value 1#8) ∧
    Memory.read (buildTable (alphaGeneral.set 1 0x41#8) 0x3D#8) 0x42 = some .invalid := by decide +kernel

/-- TB4: the alphabet is written after the padding. -/
theorem test_build_pad_in_alphabet :
    Memory.read (buildTable (alphaGeneral.set 63 0x3D#8) 0x3D#8) 0x3D = some (.value 63#8) ∧
    Memory.read (buildTable (alphaGeneral.set 63 0x3D#8) 0x3D#8) 0x2F = some .invalid := by decide +kernel

/-- A BUILD of an empty alphabet, and of one of 256 characters, is refused (log 19). -/
theorem test_build_refused :
    refusalOf (exec (.build .general) (withAlpha [] State.reset)) = some .alphabetSizeOutOfRange ∧
    refusalOf (exec (.build .general) (withAlpha (List.replicate 256 0x41#8) State.reset)) =
      some .alphabetSizeOutOfRange := by decide +kernel

/-! ## Commands -/

/-- R119 of 43_host_interface_and_variants.md and R77 of 41_encoder.md: 8 bytes are accepted with `NG = 2`, `REM = 2`. -/
theorem test_encode_accepted :
    ((nextOf (exec (.encode .urlSafe) (presenting 0b0010#4 (bytes [1, 2, 3, 4, 5, 6, 7, 8])))).map fun t =>
      (t.unit.cmd, t.unit.inLen, t.unit.ng, t.unit.rem, t.unit.state, t.unit.cmdValid)) =
      some (0b0010#4, 8, 2, 2#2, .busy, false) := by decide +kernel

/-- HV7: an ENCODE needs no table. -/
theorem test_encode_before_build :
    statusAfter (unitTurn (State.reset.withUnit (UnitState.reset.present 0b0010#4 (bytes [0xFF])))) = some (.busy, none) := by
  decide

/-- HV6: a DECODE waits for its table. -/
theorem test_decode_held :
    nextOf (exec (.decode .general) (State.reset.withUnit (UnitState.reset.present 0b0001#4 []))) =
      some (State.reset.withUnit (UnitState.reset.present 0b0001#4 [])) := by decide

/-- HV6: a DECODE with its table built is accepted. -/
theorem test_decode_accepted :
    ((nextOf (exec (.decode .urlSafe) (presenting 0b0011#4 (bytes [0x2D, 0x5F, 0x38, 0x3D])))).map fun t =>
      (t.unit.cmd, t.unit.inLen, t.unit.state, t.unit.phase)) = some (0b0011#4, 4, .busy, .lengthCheck) := by
  decide +kernel

/-- HV1: `B64ENCODE` runs as `ENCODE 0`. -/
theorem test_b64encode : ((nextOf (exec .b64encode (presenting 0b0000#4 (bytes [0x66, 0x6F])))).map fun t =>
    (t.unit.cmd, t.unit.ng, t.unit.rem)) = some (0b0000#4, 0, 2#2) := by decide +kernel

/-- `B64DECODE` runs as `DECODE 0`. -/
theorem test_b64decode : ((nextOf (exec .b64decode (presenting 0b0001#4 (bytes [0x41])))).map fun t =>
    (t.unit.cmd, t.unit.phase)) = some (0b0001#4, .lengthCheck) := by decide +kernel

/-- HV3: base 16 encode is refused. -/
theorem test_reserved_base16 : refusalOf (unitTurn (presenting 0b0100#4 (bytes [0x66]))) = some .reservedBase16 := by
  decide +kernel

/-- HV4: base 32 decode is refused. -/
theorem test_reserved_base32 : refusalOf (unitTurn (presenting 0b1001#4 (bytes [0x66]))) = some .reservedBase32 := by
  decide +kernel

/-- HV5: the third reserved base is refused. -/
theorem test_reserved_base3 : refusalOf (unitTurn (presenting 0b1100#4 (bytes [0x66]))) = some .reservedBase3 := by
  decide +kernel

/-- HV6: `cmd_ready` while a DECODE waits for its table, and once it is built (43_host_interface_and_variants.md R118). -/
theorem test_cmd_ready :
    cmdReady State.reset (UnitState.reset.present 0b0001#4 []) = false ∧
    cmdReady ready (UnitState.reset.present 0b0001#4 []) = true := by decide +kernel

/-- HV10: a command presented while `STATE = BUSY` is held. -/
theorem test_held_while_busy :
    nextOf (exec (.encode .general) (encoding 0b0000#4 (bytes [0x66]) 0)) = some (encoding 0b0000#4 (bytes [0x66]) 0) := by
  decide

/-! ## The encoder -/

/-- EV5: `14 FB 9C` has the sextets 5, 15, 46, 28 and is `FPuc`. -/
theorem test_encG3 : ((nextOf (exec .encG3 (encoding 0b0000#4 (bytes [0x14, 0xFB, 0x9C]) 0))).map fun t =>
    (t.unit.s0, t.unit.s1, t.unit.s2, t.unit.s3, t.unit.outBuf.values)) =
    some (5#6, 15#6, 46#6, 28#6, bytes [0x46, 0x50, 0x75, 0x63]) := by decide

/-- EV2: `FF FF FF` is `____` under the URL-safe alphabet. -/
theorem test_encG3_urlSafe : outAfter (exec .encG3 (encoding 0b0010#4 (bytes [0xFF, 0xFF, 0xFF]) 0)) =
    some (bytes [0x5F, 0x5F, 0x5F, 0x5F]) := by decide

/-- EV8: `FF` has the sextets 63, 48 and is `/w==`. -/
theorem test_encT1 : ((nextOf (exec .encT1 (encoding 0b0000#4 (bytes [0xFF]) 0))).map fun t =>
    (t.unit.s0, t.unit.s1, t.unit.outBuf.values)) = some (63#6, 48#6, bytes [0x2F, 0x77, 0x3D, 0x3D]) := by decide

/-- EV12: `FB FF` is `-_8=` under the URL-safe alphabet. -/
theorem test_encT2 : ((nextOf (exec .encT2 (encoding 0b0010#4 (bytes [0xFB, 0xFF]) 0))).map fun t =>
    (t.unit.s0, t.unit.s1, t.unit.s2, t.unit.outBuf.values)) =
    some (62#6, 63#6, 60#6, bytes [0x2D, 0x5F, 0x38, 0x3D]) := by decide

/-- EV13: `ENC.T0` does nothing. -/
theorem test_encT0 : nextOf (exec .encT0 (encoding 0b0000#4 [] 0)) = some (encoding 0b0000#4 [] 0) := by decide

/-- Index 62 is `+` under the general alphabet (10_state.md R16), in the third position. -/
theorem test_subst : ((nextOf (exec (.subst .p2 62#6) (encoding 0b0000#4 [] 0))).map fun t =>
    (t.unit.q1, t.unit.q2, t.unit.q3)) = some (0#8, 0x2B#8, 0#8) := by decide

/-- A group that lacks its third byte is never read: reading at `IN_LEN` is refused (43_host_interface_and_variants.md
R120). -/
theorem test_encG3_beyond_input : refusalOf (exec .encG3 (encoding 0b0000#4 (bytes [1, 2]) 0)) = some .inOutOfRange := by
  decide

/-- EV14, its last group: `04` ends the ENCODE of `01 02 03 04` with `BA==`, in `DONE`, `CNT = REM = 1`. -/
theorem test_encode_last_step : ((nextOf (unitTurn (encoding 0b0000#4 (bytes [1, 2, 3, 4]) 1))).map fun t =>
    (t.unit.cnt, t.unit.state, t.unit.outBuf.values)) = some (1#2, .done, bytes [0x42, 0x41, 0x3D, 0x3D]) := by decide

/-! ## The decoder -/

/-- DV23, DV26: five characters are `BadFormat`. -/
theorem test_decLen_bad : statusAfter (exec .decLen (decoding 0b0001#4 (bytes [0x5A, 0x67, 0x3D, 0x3D, 0x41]) 0)) =
    some (.fail, some .badFormat) := by decide +kernel

/-- P1: eight characters are two groups. -/
theorem test_decLen_good : ((nextOf (exec .decLen
    (decoding 0b0001#4 (bytes [0x46, 0x50, 0x75, 0x63, 0x41, 0x39, 0x6C, 0x2B]) 0))).map fun t => (t.unit.ng, t.unit.state)) =
    some (2, .busy) := by decide +kernel

/-- P2: the second group of `Zm9vYg==` is `Y g = =`. -/
theorem test_decFetch : ((nextOf (exec .decFetch
    (decoding 0b0001#4 (bytes [0x5A, 0x6D, 0x39, 0x76, 0x59, 0x67, 0x3D, 0x3D]) 1))).map fun t =>
    [t.unit.k0, t.unit.k1, t.unit.k2, t.unit.k3]) = some (bytes [0x59, 0x67, 0x3D, 0x3D]) := by decide +kernel

/-- DV19: `Z g = !` looks up to `19 20 40 80`. -/
theorem test_decLookup : ((nextOf (exec .decLookup ((decoding 0b0001#4 [] 0).withUnit
    { decUnit 0b0001#4 [] 0 with k0 := 0x5A#8, k1 := 0x67#8, k2 := 0x3D#8, k3 := 0x21#8 }))).map fun t =>
    ([t.unit.e0, t.unit.e1, t.unit.e2, t.unit.e3], [t.unit.v0, t.unit.v1])) =
    some (bytes [0x19, 0x20, 0x40, 0x80], [25#6, 32#6]) := by decide +kernel

/-- A lookup before BUILD faults (20_memory.md R45). -/
theorem test_decLookup_before_build :
    faultOf (exec .decLookup (State.reset.withUnit (decUnit 0b0001#4 [] 0))) = some .lutUnwritten := by decide +kernel

/-- DV19: `E = 19 20 40 80` forms `GCW = 00010010`. -/
theorem test_decClassify : ((nextOf (exec .decClassify (looked ready 0x19#8 0x20#8 0x40#8 0x80#8))).map fun t =>
    t.unit.gcw) = some 0b00010010#8 := by decide +kernel

/-- DV4: `00 01 02 03` decodes to `00 10 83`. -/
theorem test_decFull : ((nextOf (exec .decFull (looked State.reset 0x00#8 0x01#8 0x02#8 0x03#8))).map fun t =>
    (t.unit.outBuf.values, t.unit.outLen, t.unit.gi)) = some (bytes [0x00, 0x10, 0x83], 3, 1) := by decide

/-- DV2: four sextets of ones are three bytes of ones. -/
theorem test_decFull_ones : outAfter (exec .decFull (looked State.reset 0x3F#8 0x3F#8 0x3F#8 0x3F#8)) =
    some (bytes [0xFF, 0xFF, 0xFF]) := by decide

/-- S14: `E = 19 26 3C 40` decodes to `66 6F`. -/
theorem test_decTail2 : ((nextOf (exec .decTail2 (looked State.reset 0x19#8 0x26#8 0x3C#8 0x40#8))).map fun t =>
    (t.unit.outBuf.values, t.unit.state)) = some (bytes [0x66, 0x6F], .done) := by decide

/-- DV10: a non-canonical two-pad group decodes all the same. -/
theorem test_decTail1_noncanonical : ((nextOf (exec .decTail1 (looked State.reset 0x19#8 0x21#8 0x40#8 0x40#8))).map
    fun t => (t.unit.outBuf.values, t.unit.state)) = some (bytes [0x66], .done) := by decide

/-- T2: under `REJECT` a padded group with a group after it is `BadPadding`. -/
theorem test_decTail1_reject : statusAfter (exec .decTail1 ((rejecting State.reset).withUnit
    { UnitState.reset with state := .busy, ng := 2 })) = some (.fail, some .badPadding) := by decide

/-- T1: under `REJECT` a padded group that is the last ends the decode. -/
theorem test_decTerm_reject_last : statusAfter (exec .decTerm ((rejecting State.reset).withUnit
    { UnitState.reset with state := .busy, ng := 1 })) = some (.done, none) := by decide

/-- T2: under `IGNORE` the groups after a padded one are not looked at. -/
theorem test_decTerm_ignore : statusAfter (exec .decTerm (State.reset.withUnit
    { UnitState.reset with state := .busy, ng := 2 })) = some (.done, none) := by decide

/-- T2: the check of `REJECT`. -/
theorem test_decTrail : statusAfter (exec .decTrail (State.reset.withUnit
    { UnitState.reset with state := .busy, ng := 2 })) = some (.fail, some .badPadding) := by decide

/-- S8: the end of a decode. -/
theorem test_decEnd : statusAfter (exec .decEnd (State.reset.withUnit { UnitState.reset with state := .busy })) =
    some (.done, none) := by decide

/-- The four `BadCharacter` classes (42_decoder.md R97; codes of 60_exceptions.md R125). -/
theorem test_badchars :
    statusAfter (exec (.decBadcharP0 0b1000001#7) State.reset) = some (.fail, some .badCharacter) ∧
    statusAfter (exec (.decBadcharP1 0#6) State.reset) = some (.fail, some .badCharacter) ∧
    statusAfter (exec (.decBadcharP2 0#5) State.reset) = some (.fail, some .badCharacter) ∧
    statusAfter (exec (.decBadcharP3 0#4) State.reset) = some (.fail, some .badCharacter) ∧
    errCode (some .badCharacter) = 2#2 := by decide

/-- The three `BadPadding` classes (42_decoder.md R98 to R100). -/
theorem test_badpads :
    statusAfter (exec (.decBadpadP0 0#3) State.reset) = some (.fail, some .badPadding) ∧
    statusAfter (exec (.decBadpadP1 0#2) State.reset) = some (.fail, some .badPadding) ∧
    statusAfter (exec .decBadpadP2 State.reset) = some (.fail, some .badPadding) ∧
    errCode (some .badPadding) = 3#2 := by decide

/-- DV20: in `A=!A` the `Invalid` outranks the padding: one step of a running DECODE. -/
theorem test_group_priority : statusAfter (unitTurn (decoding 0b0001#4 (bytes [0x41, 0x3D, 0x21, 0x41]) 0)) =
    some (.fail, some .badCharacter) := by decide +kernel

/-- P4, its last group: `- _ 8 =` under the URL-safe alphabet ends in `DONE` with `FB FF`. -/
theorem test_group_tail2 : ((nextOf (unitTurn (decoding 0b0011#4 (bytes [0x2D, 0x5F, 0x38, 0x3D]) 0))).map fun t =>
    (t.unit.state, readResult t.unit)) = some (.done, some (bytes [0xFB, 0xFF])) := by decide +kernel

/-- T3: under `REJECT` the group after a padded one is not inspected: `BadPadding`, not `BadCharacter`. -/
theorem test_group_trailing : statusAfter (unitTurn (rejecting
    (decoding 0b0001#4 (bytes [0x5A, 0x67, 0x3D, 0x3D, 0x21, 0x21, 0x21, 0x21]) 0))) =
    some (.fail, some .badPadding) := by decide +kernel

/-- DV20: the word `00100100` placed as the next text group's `GCW` is run by the next step (log 22). -/
theorem test_placed_class : statusAfter (step (State.reset.withFetchWord 8 0b00100100)) =
    some (.fail, some .badCharacter) := by decide +kernel

/-- The count `11` placed: the next step encodes three zero bytes, `AAAA` (EV1; log 22). -/
theorem test_placed_count : outAfter (step (State.reset.withFetchWord 2 0b11)) = some (bytes [0x41, 0x41, 0x41, 0x41]) := by
  decide +kernel

/-- The command word `0011` placed: the next step accepts a DECODE (log 22). -/
theorem test_placed_command : ((nextOf (step (State.reset.withFetchWord 8 0b0011))).map fun t => (t.unit.cmd, t.unit.state)) =
    some (0b0011#4, .busy) := by decide +kernel

/-! ## Inputs that meet the statements' hypotheses, clause by clause -/

/-- A unit between commands: none presented, the last one ended in `DONE` with one byte in `OUT`. -/
def doneUnit : UnitState := { UnitState.reset with state := .done, outLen := 1, outBuf := [(0, 0x66#8)] }

/-- `Zm9vYg==`, P2's first eight characters. -/
def fooB : List Byte := bytes [0x5A, 0x6D, 0x39, 0x76, 0x59, 0x67, 0x3D, 0x3D]

/-- A DECODE of `Zm9vYg==` with its first group done: `OUT` holds `66 6F 6F` (P2). -/
def midDecode : State :=
  ready.withUnit { decUnit 0b0001#4 fooB 1 with outLen := 3, outBuf := Memory.ofList (bytes [0x66, 0x6F, 0x6F]) }

theorem test_witness_StepRunsTheSelectedOperation :
    ((event .unitTurn (presenting 0b0000#4 [])).events = .unitTurn :: [] ∧
      (event .unitTurn (presenting 0b0000#4 [])).unit.state ≠ .busy ∧
      (event .unitTurn (presenting 0b0000#4 [])).unit.cmdValid = true) ∧
    ((event .unitTurn State.reset).unit.state ≠ .busy ∧ (event .unitTurn State.reset).unit.cmdValid = false) ∧
    ((encUnit 0b0000#4 (bytes [1, 2, 3]) 0).state = .busy ∧ cmdOp (encUnit 0b0000#4 (bytes [1, 2, 3]) 0).cmd = 0#1 ∧
      (encUnit 0b0000#4 (bytes [1, 2, 3]) 0).gi < (encUnit 0b0000#4 (bytes [1, 2, 3]) 0).ng ∧
      (encUnit 0b0000#4 (bytes [1, 2, 3]) 1).ng ≤ (encUnit 0b0000#4 (bytes [1, 2, 3]) 1).gi) ∧
    ((decUnit 0b0001#4 (bytes [1, 2, 3, 4]) 0).state = .busy ∧ cmdOp (decUnit 0b0001#4 (bytes [1, 2, 3, 4]) 0).cmd = 1#1 ∧
      (decUnit 0b0001#4 (bytes [1, 2, 3, 4]) 0).phase = .groups ∧
      (decUnit 0b0001#4 (bytes [1, 2, 3, 4]) 0).gi < (decUnit 0b0001#4 (bytes [1, 2, 3, 4]) 0).ng ∧
      (decUnit 0b0001#4 (bytes [1, 2, 3, 4]) 1).ng ≤ (decUnit 0b0001#4 (bytes [1, 2, 3, 4]) 1).gi) ∧
    (UnitState.acceptDecode UnitState.reset 0b0001#4).state = .busy ∧
      cmdOp (UnitState.acceptDecode UnitState.reset 0b0001#4).cmd = 1#1 ∧
      (UnitState.acceptDecode UnitState.reset 0b0001#4).phase = .lengthCheck := by decide

/-- No event to come: a running command, an ENCODE presented before any table is built, a DECODE presented with its table
built; and a host that waits for the port. -/
theorem test_witness_StepRunsTheSelectedOperation_default :
    ((encoding 0b0000#4 [] 0).events = [] ∧ (encoding 0b0000#4 [] 0).unit.state = .busy) ∧
    (let s := State.reset.withUnit (UnitState.reset.present 0b0010#4 []);
      s.events = [] ∧ s.unit.cmdValid = true ∧ ¬ (cmdBase s.unit.portCmd = 0#2 ∧ cmdOp s.unit.portCmd = 1#1 ∧
        s.lutValid (cmdAsel s.unit.portCmd) = false)) ∧
    (let s := presenting 0b0011#4 fooB;
      s.events = [] ∧ s.unit.cmdValid = true ∧ ¬ (cmdBase s.unit.portCmd = 0#2 ∧ cmdOp s.unit.portCmd = 1#1 ∧
        s.lutValid (cmdAsel s.unit.portCmd) = false)) ∧
    ((event (.present 0b0000#4 []) (presenting 0b0011#4 fooB)).events = .present 0b0000#4 [] :: [] ∧
      (event (.present 0b0000#4 []) (presenting 0b0011#4 fooB)).unit.cmdValid = true) := by decide +kernel

theorem test_witness_CountSelectsGroupOperation :
    (∃ t, unitTurn (encoding 0b0000#4 (bytes [1, 2, 3]) 0) = .next t ∧ decide (t.unit.cnt = 3#2) = true) ∧
    (∃ t, unitTurn (encoding 0b0000#4 (bytes [1, 2, 3, 4]) 1) = .next t ∧ decide (t.unit.cnt = 1#2) = true) ∧
    (encUnit 0b0000#4 (bytes [1, 2, 3, 4]) 1).state = .busy ∧ cmdOp (encUnit 0b0000#4 (bytes [1, 2, 3, 4]) 1).cmd = 0#1 ∧
    (encUnit 0b0000#4 (bytes [1, 2, 3, 4]) 1).gi ≤ (encUnit 0b0000#4 (bytes [1, 2, 3, 4]) 1).ng :=
  ⟨exists_next (by decide), exists_next (by decide), by decide⟩

theorem test_witness_GroupClassWordLayout :
    Entry.layout (.value 63#8) = some 0x3F#8 ∧ Entry.layout (.value 0#8) = some 0x00#8 ∧
    Entry.layout .padding = some 0x40#8 ∧ Entry.layout .invalid = some 0x80#8 := by decide

theorem test_witness_ClassMapAgreesWithValidator :
    (Entry.layout (.value 0#8) = some 0x00#8 ∧ Entry.layout (.value 1#8) = some 0x01#8 ∧
      Entry.layout .padding = some 0x40#8 ∧ Entry.layout .invalid = some 0x80#8) ∧
    instrClass (decodeGcw (gcwOf 0x00#8 0x01#8 0x40#8 0x80#8)) = some .badChar := by decide

theorem test_witness_EncodedWordsDecode :
    encode (.decBadpadP0 0b111#3) = some (.gcw8, 15) ∧ encode .b64decode = some (.cmd4, 1) ∧
    encode .encG3 = some (.cnt2, 3) ∧ (∃ i, decodeWord .gcw8 255 = .ok i) ∧ (∃ i, decodeWord .cmd4 15 = .ok i) ∧
    ∃ i, decodeWord .cnt2 0 = .ok i := ⟨rfl, rfl, rfl, ⟨_, rfl⟩, ⟨_, rfl⟩, ⟨_, rfl⟩⟩

theorem test_witness_TableEntryLayout :
    (63#8 < 64#8 ∧ 0#8 < 64#8) ∧
    (Entry.layout (.value 63#8) = some 0x3F#8 ∧ Entry.layout .padding = some 0x40#8 ∧ Entry.layout .invalid = some 0x80#8) ∧
    alphaGeneral.length ≤ 64 ∧ Memory.read (buildTable alphaGeneral padChar) 0x2F = some (.value 63#8) ∧
    Memory.read (buildTable alphaGeneral padChar) 255 = some .invalid := by decide +kernel

theorem test_witness_ResetTakesEffectInOneStep :
    (event .reset midDecode).events = .reset :: [] ∧ (event .reset midDecode).unit.state = .busy ∧
    (unitsOf (event .reset (State.reset.withUnit doneUnit)))[0]? = some doneUnit ∧ doneUnit.state ≠ .busy := by
  decide +kernel

theorem test_witness_CommandOnThePort :
    (UnitState.reset.present 0b0000#4 []).state ≠ .busy ∧ (UnitState.reset.present 0b0000#4 []).cmdValid = true ∧
    cmdBase (UnitState.reset.present 0b0100#4 []).portCmd ≠ 0#2 ∧
    (fitsLen ready.params (presenting 0b0000#4 []).unit.portInLen = true) ∧
    (fitsLen (withLenW 3 ready).params (4 * ((6 + 2) / 3)) = false ∧ fitsLen (withLenW 3 ready).params 6 = true) ∧
    (State.reset.lutValid (cmdAsel 0b0011#4) = false) ∧
    (ready.lutValid .general = true ∧ alen (withAlpha [0x41#8] ready).params .general ≠ 64) ∧
    (fitsLen (withLenW 3 ready).params 8 = false ∧ fitsLen (withLenW 3 ready).params (3 * 7 / 4) = true) ∧
    ((encUnit 0b0000#4 [] 0).state = .busy ∧ UnitState.reset.cmdValid = false) := by decide +kernel

theorem test_witness_EncodeIsAccepted :
    (presenting 0b0000#4 (bytes [1])).unit.state ≠ .busy ∧
    fitsLen (withLenW 3 (presenting 0b0000#4 (bytes [1]))).params 1 = true ∧
    fitsLen (withLenW 3 (presenting 0b0000#4 (bytes [1]))).params (4 * ((1 + 2) / 3)) = true := by decide +kernel

theorem test_witness_DecodeIsAccepted :
    ready.unit.state ≠ .busy ∧ ready.lutValid .general = true ∧ ready.lutValid .urlSafe = true ∧
    alen ready.params .general = 64 ∧ alen ready.params .urlSafe = 64 ∧
    fitsLen ready.params ready.unit.portInLen = true ∧ fitsLen ready.params (3 * ready.unit.portInLen / 4) = true := by
  decide +kernel

theorem test_witness_CommandsAreHeldOrRefused :
    (encUnit 0b0000#4 [] 0).state = .busy ∧ State.reset.lutValid .general = false ∧
    (State.reset.unit.state ≠ .busy ∧
      (fitsLen (withLenW 3 ready).params 6 && fitsLen (withLenW 3 ready).params (encodedLen 6)) = false) ∧
    (ready.lutValid .general = true ∧ alen (withAlpha [0x41#8] ready).params .general ≠ 64) ∧
    (alen (withLenW 3 ready).params .general = 64 ∧
      (fitsLen (withLenW 3 ready).params 8 && fitsLen (withLenW 3 ready).params (decodedLenMax 8)) = false) := by
  decide +kernel

theorem test_witness_ReservedCommandsAreRefused :
    (0b0100#4).extractLsb' 2 2 = 0b01#2 ∧ (0b0111#4).extractLsb' 2 2 = 0b01#2 ∧ (0b1000#4).extractLsb' 2 2 = 0b10#2 ∧
    (0b1011#4).extractLsb' 2 2 = 0b10#2 ∧ (0b1100#4).extractLsb' 2 2 = 0b11#2 ∧ (0b1111#4).extractLsb' 2 2 = 0b11#2 := by
  decide

theorem test_witness_BuildMakesTheTable :
    (alen State.reset.params .general = 64) ∧ alen (withAlpha [0x41#8] State.reset).params .general = 1 ∧
    alen (withAlpha (List.replicate 255 0x41#8) State.reset).params .general = 255 := by decide +kernel

/-- Both alphabets of this block, with the characters at 0 and 63, and a byte outside (10_state.md R16, R17). -/
theorem test_witness_WellFormedAlphabetTable :
    alphabetWellFormed alphaGeneral padChar ∧ alphabetWellFormed alphaUrlSafe padChar ∧
    alphaGeneral[0]? = some 0x41#8 ∧ alphaUrlSafe[63]? = some 0x5F#8 ∧ 0x00#8 ∉ alphaGeneral ∧ 0x00#8 ≠ padChar := by
  unfold alphabetWellFormed; decide +kernel

/-- TB3 and TB4 (95_test_vectors.md section 2.1). -/
theorem test_witness_MalformedAlphabets :
    ((alphaGeneral.set 1 0x41#8).length ≤ 255 ∧ (alphaGeneral.set 1 0x41#8)[0]? = some 0x41#8 ∧
      (alphaGeneral.set 1 0x41#8)[1]? = some 0x41#8) ∧
    (alphaGeneral[63]? = some 0x2F#8 ∧ ∀ k, 63 < k → alphaGeneral[k]? ≠ some 0x2F#8) ∧
    0x3D#8 ∈ alphaGeneral.set 63 0x3D#8 := by
  refine ⟨by decide +kernel, ⟨by decide +kernel, fun k hk => ?_⟩, by decide +kernel⟩
  rw [List.getElem?_eq_none (by have : alphaGeneral.length = 64 := by decide +kernel
                                omega)]
  decide

/-- EV5 as the second group. -/
theorem test_witness_FullRawGroupIsEncoded :
    let s : State := encoding 0b0000#4 (bytes [0, 0, 0, 0x14, 0xFB, 0x9C]) 1
    alen s.params s.unit.asel = 64 ∧ 3 * s.unit.gi + 2 < s.unit.inLen ∧
    Memory.read s.unit.inBuf (3 * s.unit.gi) = some 0x14#8 ∧ Memory.read s.unit.inBuf (3 * s.unit.gi + 1) = some 0xFB#8 ∧
    Memory.read s.unit.inBuf (3 * s.unit.gi + 2) = some 0x9C#8 := by decide

/-- EV8 and EV12. -/
theorem test_witness_TailsAreEncoded :
    (let s := encoding 0b0000#4 (bytes [0xFF]) 0;
      alen s.params s.unit.asel = 64 ∧ 3 * s.unit.ng < s.unit.inLen ∧
      Memory.read s.unit.inBuf (3 * s.unit.ng) = some 0xFF#8) ∧
    (let s := encoding 0b0010#4 (bytes [0xFB, 0xFF]) 0;
      3 * s.unit.ng + 1 < s.unit.inLen ∧ Memory.read s.unit.inBuf (3 * s.unit.ng) = some 0xFB#8 ∧
      Memory.read s.unit.inBuf (3 * s.unit.ng + 1) = some 0xFF#8) := by decide

theorem test_witness_SubstitutionReadsTheAlphabet :
    (alphaOf State.reset.params .general)[(0#6).toNat]? = some 0x41#8 ∧
    (alphaOf State.reset.params .general)[(63#6).toNat]? = some 0x2F#8 ∧ alen State.reset.params .urlSafe = 64 ∧
    alphabetWellFormed (alphaOf State.reset.params .urlSafe) State.reset.params.pad := by
  unfold alphabetWellFormed; decide +kernel

theorem test_witness_EncoderAndBuildRaiseNothing :
    (∃ t, exec .encG3 (encoding 0b0000#4 (bytes [1, 2, 3]) 0) = .next t ∧ decide (t.unit.outLen = 4) = true) ∧
    (∃ t, exec .encT1 (encoding 0b0000#4 (bytes [1]) 0) = .next t ∧ decide (t.unit.outLen = 4) = true) ∧
    (∃ t, exec .encT2 (encoding 0b0000#4 (bytes [1, 2]) 0) = .next t ∧ decide (t.unit.outLen = 4) = true) ∧
    (∃ t, exec .encT0 State.reset = .next t ∧ decide (t.unit.outLen = 0) = true) ∧
    (∃ t, exec (.subst .p0 0#6) State.reset = .next t ∧ decide (t.unit.q0 = 0x41#8) = true) ∧
    (∃ t, exec (.build .general) State.reset = .next t ∧ t.lutValid0 = true) ∧
    (∃ t, exec (.encode .general) State.reset = .next t ∧ decide (t.unit.state = .busy) = true) ∧
    (∃ t, exec .b64encode State.reset = .next t ∧ decide (t.unit.state = .busy) = true) ∧
    ∃ t, unitTurn (encoding 0b0000#4 (bytes [1]) 0) = .next t ∧ decide (t.unit.state = .done) = true :=
  ⟨exists_next (by decide), exists_next (by decide), exists_next (by decide), exists_next (by decide),
    exists_next (by decide), exists_next (by decide +kernel), exists_next (by decide), exists_next (by decide),
    exists_next (by decide)⟩

theorem test_witness_EncoderIgnoresTheTables :
    (∃ a, Instr.encode .urlSafe = .encode a) ∧ ∃ q x, Instr.subst .p3 63#6 = .subst q x := ⟨⟨_, rfl⟩, _, _, rfl⟩

theorem test_witness_EncodedLength :
    sequencerOk (encUnit 0b0000#4 (bytes [1]) 0) ∧ (encUnit 0b0000#4 (bytes [1]) 0).state = .busy ∧
    cmdOp (encUnit 0b0000#4 (bytes [1]) 0).cmd = 0#1 ∧
    ∃ t, unitTurn (encoding 0b0000#4 (bytes [1]) 0) = .next t ∧ decide (t.unit.state = .done) = true := by
  refine ⟨?_, by decide, by decide, exists_next (by decide)⟩
  refine ⟨by decide, fun _ _ => ?_, nofun, nofun, nofun, nofun⟩
  unfold encodeCounters; decide

theorem test_witness_EncodeOfConcatenation :
    (bytes [1, 2, 3]).length % 3 = 0 ∧ (∀ x : Sextet, alphabetFn blockParams .general x ≠ blockParams.pad) ∧
    (enc (alphabetFn blockParams .general) blockParams.pad (bytes [0x66]))[2]? = some blockParams.pad := by decide +kernel

theorem test_witness_EncodeRunsToItsResult :
    presents (presenting 0b0010#4 (bytes [1, 2, 3, 4])).unit 0b0010#4 (bytes [1, 2, 3, 4]) ∧
    presents (presenting 0b0000#4 []).unit 0b0000#4 [] ∧
    fitsLen ready.params 4 = true ∧ fitsLen ready.params (4 * ((4 + 2) / 3)) = true ∧ alen ready.params .urlSafe = 64 ∧
    alen ready.params .general = 64 := by
  unfold presents; decide +kernel

theorem test_witness_LengthCheck :
    (decUnit 0b0001#4 (bytes [0x41]) 0).inLen % 4 ≠ 0 ∧ (decUnit 0b0001#4 (bytes [1, 2, 3]) 0).inLen % 4 ≠ 0 ∧
    (decUnit 0b0001#4 [] 0).inLen % 4 = 0 ∧ (decUnit 0b0001#4 fooB 0).inLen % 4 = 0 := by decide

/-- The second group of `Zm9vYg==`. -/
theorem test_witness_TextGroupIsFetched :
    4 * midDecode.unit.gi + 3 < midDecode.unit.inLen ∧
    Memory.read midDecode.unit.inBuf (4 * midDecode.unit.gi) = some 0x59#8 ∧
    Memory.read midDecode.unit.inBuf (4 * midDecode.unit.gi + 1) = some 0x67#8 ∧
    Memory.read midDecode.unit.inBuf (4 * midDecode.unit.gi + 2) = some 0x3D#8 ∧
    Memory.read midDecode.unit.inBuf (4 * midDecode.unit.gi + 3) = some 0x3D#8 := by decide +kernel

/-- Both tables after the Table Builder hold `build(ALPHA[a], PAD)`. -/
theorem ready_tables (a : Asel) (c : Byte) : Memory.read (ready.lut a) c.toNat = some (tableFn ready.params a c) := by
  cases a <;> revert c <;> decide +kernel

theorem test_witness_TextGroupIsLookedUp :
    alen ready.params ready.unit.asel = 64 ∧
    (∀ c : Byte, Memory.read (ready.lut ready.unit.asel) c.toNat = some (tableFn ready.params ready.unit.asel c)) ∧
    ready.unit.k0 = 0#8 ∧ Entry.layout (tableFn ready.params ready.unit.asel 0#8) = some 0x80#8 :=
  ⟨by decide +kernel, fun c => ready_tables _ c, by decide +kernel⟩

theorem test_witness_PaddedGroupsAreDecoded :
    State.reset.params.trail = .ignore ∧
    ((rejecting State.reset).params.trail = .reject ∧
      ({ UnitState.reset with ng := 1 } : UnitState).ng ≤ ({ UnitState.reset with ng := 1 } : UnitState).gi + 1) := by decide

/-- DV6 and DV10, DV11 and S14: two sextets that differ in their unused bits. -/
theorem test_witness_UnusedTailBitsAreIgnored :
    (0x21#6).extractLsb' 4 2 = (0x20#6).extractLsb' 4 2 ∧ (0x3D#6).extractLsb' 2 4 = (0x3C#6).extractLsb' 2 4 ∧
    (looked State.reset 0x19#8 0x20#8 0x3C#8 0x40#8).unit.v1 = 0x20#6 ∧
    (looked State.reset 0x19#8 0x20#8 0x3C#8 0x40#8).unit.v2 = 0x3C#6 ∧
    (∃ t, exec .decTail1 (looked State.reset 0x19#8 0x20#8 0x3C#8 0x40#8) = .next t ∧
      decide (t.unit.state = .done ∧ t.unit.outBuf.values = bytes [0x66]) = true) ∧
    (∃ t, exec .decTail1 (looked State.reset 0x19#8 0x21#8 0x3C#8 0x40#8) = .next t ∧
      decide (t.unit.state = .done ∧ t.unit.outBuf.values = bytes [0x66]) = true) ∧
    (∃ t, exec .decTail2 (looked State.reset 0x19#8 0x26#8 0x3C#8 0x40#8) = .next t ∧
      decide (t.unit.state = .done ∧ t.unit.outBuf.values = bytes [0x66, 0x6F]) = true) ∧
    ∃ t, exec .decTail2 (looked State.reset 0x19#8 0x26#8 0x3D#8 0x40#8) = .next t ∧
      decide (t.unit.state = .done ∧ t.unit.outBuf.values = bytes [0x66, 0x6F]) = true :=
  ⟨by decide, by decide, by decide, by decide, exists_next (by decide), exists_next (by decide), exists_next (by decide),
    exists_next (by decide)⟩

theorem test_witness_TrailingGroupsAreRejected :
    (rejecting State.reset).params.trail = .reject ∧
    ({ UnitState.reset with ng := 2 } : UnitState).gi + 1 < ({ UnitState.reset with ng := 2 } : UnitState).ng := by decide

theorem test_witness_EndOfADecode :
    State.reset.params.trail = .ignore ∧ State.reset.unit.ng ≤ State.reset.unit.gi + 1 ∧
    (decUnit 0b0001#4 fooB 1).ng ≤ (decUnit 0b0001#4 fooB 1).gi + 1 ∧
    (decUnit 0b0001#4 fooB 0).gi + 1 < (decUnit 0b0001#4 fooB 0).ng := by decide

theorem test_witness_BadGroupsRaise :
    (DecodeError.badCharacter = .badCharacter ∧ ∃ r, Instr.decBadcharP3 0b0010#4 = .decBadcharP3 r) ∧
    (DecodeError.badPadding = .badPadding ∧ ∃ r, Instr.decBadpadP0 0b111#3 = .decBadpadP0 r) ∧
    fitsLen State.reset.params State.reset.unit.portInLen = true ∧
    fitsLen State.reset.params (encodedLen State.reset.unit.portInLen) = true :=
  ⟨⟨rfl, _, rfl⟩, ⟨rfl, _, rfl⟩, by decide, by decide⟩

/-- `A` (S9) and `A!A` (DV25); then, after `AAAA`: `Zg=!` (DV19), `A=AA` (S11), and `Zg==` and `Zm8=` before other text
(T3), under the table of the general alphabet. -/
theorem test_witness_FirstFailingGroupDecides :
    let T := tableFn blockParams .general
    (bytes [0x41]).length % 4 ≠ 0 ∧ (bytes [0x41, 0x21, 0x41]).length % 4 ≠ 0 ∧
    (bytes [0x41, 0x41, 0x41, 0x41]).length % 4 = 0 ∧
    (∀ c ∈ bytes [0x41, 0x41, 0x41, 0x41], T c = .value 0#8) ∧
    T 0x21#8 = .invalid ∧
    classify (T 0x41#8) (T 0x3D#8) (T 0x41#8) (T 0x41#8) = .badPad ∧
    classify (T 0x5A#8) (T 0x67#8) (T 0x3D#8) (T 0x3D#8) = .tail1 ∧
    classify (T 0x5A#8) (T 0x6D#8) (T 0x38#8) (T 0x3D#8) = .tail2 ∧
    (T 0x5A#8 = .value 25#8 ∧ T 0x67#8 = .value 32#8 ∧ T 0x38#8 = .value 60#8 ∧ T 0x3D#8 = .padding) ∧
    (bytes [0x21, 0x21, 0x21, 0x21]).length % 4 = 0 ∧ bytes [0x21, 0x21, 0x21, 0x21] ≠ [] := by decide +kernel

theorem test_witness_DecodeRunsToItsResult :
    presents (presenting 0b0011#4 fooB).unit 0b0011#4 fooB ∧ presents (presenting 0b0001#4 []).unit 0b0001#4 [] ∧
    fitsLen ready.params 8 = true ∧ fitsLen ready.params (3 * 8 / 4) = true ∧
    alen (presenting 0b0011#4 fooB).params .urlSafe = 64 ∧ (presenting 0b0011#4 fooB).lutValid .urlSafe = true ∧
    (∀ c : Byte, Memory.read ((presenting 0b0011#4 fooB).lut .urlSafe) c.toNat =
      some (tableFn (presenting 0b0011#4 fooB).params .urlSafe c)) := by
  refine ⟨?_, ?_, by decide +kernel, by decide +kernel, by decide +kernel, by decide +kernel, fun c => ready_tables .urlSafe c⟩ <;>
    · unfold presents; decide +kernel

theorem test_witness_EmptyInputDecodes :
    let u := (UnitState.reset.present 0b0001#4 []).acceptDecode 0b0001#4
    u.state = .busy ∧ cmdOp u.cmd = 1#1 ∧ u.phase = .lengthCheck ∧ u.inLen = 0 ∧ u.gi = 0 ∧ u.outLen = 0 := by decide

theorem test_witness_RoundTrip : alphabetWellFormed (alphaOf blockParams .general) blockParams.pad := by
  unfold alphabetWellFormed; decide +kernel

theorem test_witness_ValidTablesStay :
    (∃ t, step ready = .next t ∧ t.lutValid0 = true) ∧ ready.lutValid .general = true ∧
    (∀ es, ready.events ≠ .reset :: es) ∧
    (∃ t, step State.reset = .next t ∧ t.lutValid0 = true) ∧ State.reset.lutValid .general = false ∧
    (∀ es, State.reset.events ≠ .reset :: es) :=
  ⟨exists_next (by decide +kernel), by decide +kernel, nofun, exists_next (by decide +kernel), by decide, nofun⟩

theorem test_witness_StepKeepsTheParameters : ∃ t, step (event .reset midDecode) = .next t ∧ decide (t.unit.state = .idle) = true :=
  exists_next (by decide +kernel)

theorem test_witness_OperationsActOnOneUnit :
    (∃ t, exec (.decode .general) (presenting 0b0001#4 []) = .next t ∧ (!t.unit.cmdValid) = true) ∧
    (∃ t, exec .decFull (presenting 0b0001#4 []) = .next t ∧ t.unit.cmdValid = true) ∧
    ∀ a, Instr.decFull ≠ .build a :=
  ⟨exists_next (by decide +kernel), exists_next (by decide +kernel), nofun⟩

theorem test_witness_MemoryStaysCanonical :
    memoriesWf midDecode = true ∧ ∃ t, step midDecode = .next t ∧ decide (t.unit.outLen = 4) = true :=
  ⟨by decide +kernel, exists_next (by decide +kernel)⟩

/-- A running DECODE and, after it, the step that ends it. -/
theorem test_witness_StatusStaysConsistent :
    (∀ u ∈ unitsOf midDecode, statusOk u) ∧ ∃ t, step midDecode = .next t ∧ decide (t.unit.state = .done) = true := by
  refine ⟨fun u hu => ?_, exists_next (by decide +kernel)⟩
  simp only [unitsOf, List.mem_cons] at hu
  rcases hu with rfl | hu
  · exact ⟨nofun, nofun⟩
  · exact nomatch hu

/-- The sequencer of the running DECODE of `Zm9vYg==`: `NG = 2`, `GI = 1`, `OUT_LEN = 3` (P2). -/
theorem midDecode_sequencer : sequencerOk midDecode.unit := by
  refine ⟨by decide, nofun, fun _ _ => ?_, nofun, nofun, nofun⟩
  change 8 % 4 = 0 ∧ 2 = 8 / 4 ∧ 1 < 2 ∧ 3 = 3 * 1
  decide

theorem test_witness_SequencerStaysConsistent :
    (∀ u ∈ unitsOf midDecode, sequencerOk u) ∧ ∃ t, step midDecode = .next t ∧ decide (t.unit.state = .done) = true := by
  refine ⟨fun u hu => ?_, exists_next (by decide +kernel)⟩
  simp only [unitsOf, List.mem_cons] at hu
  rcases hu with rfl | hu
  · exact midDecode_sequencer
  · exact nomatch hu

/-- The running DECODE of `Zm9vYg==` is correct so far: what is left decodes to `66 6F 6F 62` (P2). -/
theorem midDecode_correct : unitCorrect midDecode midDecode.unit := by
  refine ⟨⟨nofun, nofun⟩, midDecode_sequencer, ⟨by decide +kernel, by decide +kernel⟩,
    fun _ => ⟨by decide +kernel, by decide +kernel⟩, fun _ => by decide +kernel, fun _ _ => by decide +kernel, nofun,
    fun _ => ⟨fun _ => nofun, fun _ _ => ⟨by decide +kernel, ?_⟩, nofun, nofun⟩⟩
  rfl

theorem test_witness_CodecStaysCorrect :
    codecCorrect midDecode ∧ ∃ t, step midDecode = .next t ∧
      decide (t.unit.outBuf.values = bytes [0x66, 0x6F, 0x6F, 0x62]) = true := by
  refine ⟨⟨fun a _ c => ready_tables a c, fun u hu => ?_⟩, exists_next (by decide +kernel)⟩
  simp only [unitsOf, List.mem_cons] at hu
  rcases hu with rfl | hu
  · exact midDecode_correct
  · exact nomatch hu

/-- Right after reset, and with the general table already built. -/
theorem test_witness_TablesAreBuiltAfterReset :
    State.reset.events = [] ∧ (∀ u ∈ unitsOf State.reset, u.state ≠ .busy ∧ u.cmdValid = false) ∧
    (∀ a, 1 ≤ alen State.reset.params a ∧ alen State.reset.params a ≤ 255) ∧ tablesBuilt State.reset ∧
    tablesBuilt ready ∧ ready.events = [] := by
  refine ⟨by decide, ?_, fun a => by cases a <;> decide, fun a h => ?_, fun a _ c => ready_tables a c, by decide +kernel⟩
  · intro u hu
    simp only [unitsOf, List.mem_cons] at hu
    rcases hu with rfl | hu
    · exact ⟨nofun, rfl⟩
    · exact nomatch hu
  · cases a <;> exact nomatch h

theorem test_witness_ResultStaysUntilTheNextCommand :
    doneUnit.state = .done ∧ doneUnit.cmdValid = false ∧
    (∃ t, step (State.reset.withUnit doneUnit) = .next t ∧ t.lutValid0 = true) ∧
    (∃ t, step (event (.present 0b0000#4 []) (State.reset.withUnit doneUnit)) = .next t ∧ t.unit.cmdValid = true) ∧
    (∀ es, (State.reset.withUnit doneUnit).events ≠ .reset :: es) ∧
    (∀ es, (State.reset.withUnit doneUnit).events ≠ .nextUnit :: es) ∧ (State.reset.withUnit doneUnit).others = [] :=
  ⟨rfl, rfl, exists_next (by decide +kernel), exists_next (by decide +kernel), nofun, nofun, rfl⟩

theorem test_witness_HostReadsOnlyInDone :
    UnitState.reset.state ≠ .done ∧ doneUnit.state = .done ∧ doneUnit.outBuf = Memory.ofList (bytes [0x66]) ∧
    doneUnit.outLen = (bytes [0x66]).length := by decide

/-- A length check that leaves the command running, a group operation, and a text group. -/
theorem test_witness_GroupIndexAdvancesByOne :
    (sequencerOk ((UnitState.reset.present 0b0001#4 fooB).acceptDecode 0b0001#4) ∧
      ∃ t, unitTurn (ready.withUnit ((UnitState.reset.present 0b0001#4 fooB).acceptDecode 0b0001#4)) = .next t ∧
        decide (t.unit.state = .busy) = true) ∧
    (sequencerOk (encUnit 0b0000#4 (bytes [1, 2, 3]) 0) ∧
      ∃ t, unitTurn (encoding 0b0000#4 (bytes [1, 2, 3]) 0) = .next t ∧ decide (t.unit.state = .busy) = true) ∧
    (sequencerOk (decUnit 0b0001#4 fooB 0) ∧
      ∃ t, unitTurn (decoding 0b0001#4 fooB 0) = .next t ∧ decide (t.unit.state = .busy) = true) := by
  refine ⟨⟨⟨by decide, nofun, fun _ _ => ⟨rfl, rfl⟩, nofun, nofun, nofun⟩, exists_next (by decide +kernel)⟩,
    ⟨⟨by decide, fun _ _ => ?_, nofun, nofun, nofun, nofun⟩, exists_next (by decide)⟩,
    ⟨⟨by decide, nofun, fun _ _ => ?_, nofun, nofun, nofun⟩, exists_next (by decide +kernel)⟩⟩
  · unfold encodeCounters; decide
  · change 8 % 4 = 0 ∧ 2 = 8 / 4 ∧ 0 < 2 ∧ 0 = 3 * 0
    decide

theorem test_witness_HostAndBuilderMoves :
    ((event (.present 0b0001#4 fooB) State.reset).events = .present 0b0001#4 fooB :: [] ∧
      (event (.present 0b0001#4 fooB) State.reset).unit.cmdValid = false) ∧
    ((event (.builderTurn .general) ready).events = .builderTurn .general :: [] ∧
      (event (.builderTurn .general) ready).lutValid .general = true) ∧
    ((event (.builderTurn .general) State.reset).events = .builderTurn .general :: [] ∧
      (event (.builderTurn .general) State.reset).lutValid .general = false) ∧
    ((event .nextUnit State.reset).events = .nextUnit :: [] ∧ (event .nextUnit State.reset).others = []) := by
  decide +kernel

/-- Two units, the one in focus done and the other running an ENCODE. -/
def twoUnits : State := { State.reset with unit := doneUnit, others := [encUnit 0b0000#4 (bytes [0x66]) 0] }

/-- The other unit comes into focus, by an event or by itself. -/
theorem test_witness_HostAndBuilderMoves_focus :
    ((event .nextUnit twoUnits).events = .nextUnit :: [] ∧
      (event .nextUnit twoUnits).others = encUnit 0b0000#4 (bytes [0x66]) 0 :: []) ∧
    (twoUnits.events = [] ∧ twoUnits.others = encUnit 0b0000#4 (bytes [0x66]) 0 :: [] ∧
      twoUnits.unit.canMove twoUnits = false ∧ ∃ u ∈ twoUnits.others, u.canMove twoUnits = true) :=
  ⟨by decide, rfl, rfl, by decide, _, List.mem_singleton_self _, by decide⟩

end Sys2Proof.Tests
end

namespace Sys2Proof.Machine

/-! ## The fields of an entry's byte (10_state.md R21) -/

/-- A byte below 64 has `INV` clear: it is no `Invalid`. -/
theorem entryInv_of_lt {v : Byte} (h : v < 64#8) : entryInv v = 0#1 := by
  apply BitVec.eq_of_toNat_eq
  simp only [entryInv, BitVec.extractLsb'_toNat, Nat.shiftRight_eq_div_pow]
  bv_omega

/-- A byte below 64 has `PADF` clear: it is no `Padding`. -/
theorem entryPadf_of_lt {v : Byte} (h : v < 64#8) : entryPadf v = 0#1 := by
  apply BitVec.eq_of_toNat_eq
  simp only [entryPadf, BitVec.extractLsb'_toNat, Nat.shiftRight_eq_div_pow]
  bv_omega

/-- `VAL` is the byte cut to its low six bits. -/
theorem entryVal_eq_setWidth (b : Byte) : entryVal b = b.setWidth 6 :=
  BitVec.setWidth_eq_extractLsb' (by decide) |>.symm

/-- The fields of a byte in the layout tell the three kinds of entry apart and give a value back. -/
theorem fields_of_layout {e : Entry} {b : Byte} (h : Entry.layout e = some b) :
    (entryInv b = 1#1 ↔ e = .invalid) ∧ (entryPadf b = 1#1 ↔ e = .padding) ∧
    (∀ v, e = .value v → entryVal b = v.setWidth 6) ∧ ((∀ v, e ≠ .value v) → entryVal b = 0#6) := by
  obtain ⟨v, rfl, hv, rfl⟩ | ⟨rfl, rfl⟩ | ⟨rfl, rfl⟩ := layout_eq_some.mp h
  · simp [entryInv_of_lt hv, entryPadf_of_lt hv, entryVal_eq_setWidth]
  · simp [entryInv, entryPadf, entryVal]
  · simp [entryInv, entryPadf, entryVal]

/-! ## The entries of a built table (40_table_build.md R70) -/

/-- Where an entry comes from after BUILD's third phase: it is the value of an index at which the alphabet has the
cell's character, or it stood there before. -/
theorem read_writeAlphabet_cases {cs : List Byte} {i c : Nat} {t : Memory Entry} {e : Entry}
    (h : Memory.read (writeAlphabet i cs t) c = some e) :
    (∃ ch v, (ch, v) ∈ cs.zipIdx i ∧ ch.toNat = c ∧ e = .value (BitVec.ofNat 8 v)) ∨ Memory.read t c = some e := by
  induction cs generalizing i t with
  | nil => exact .inr h
  | cons ch cs ih =>
    rw [writeAlphabet] at h
    rw [List.zipIdx_cons]
    obtain ⟨ch', v, hmem, hc, he⟩ | hread := ih h
    · exact .inl ⟨ch', v, List.mem_cons_of_mem _ hmem, hc, he⟩
    · rw [read_write] at hread
      split at hread
      · next hc => exact .inl ⟨ch, i, List.mem_cons_self, hc.symm, (Option.some.inj hread).symm⟩
      · exact .inr hread

/-- Before BUILD's second phase every cell is `Invalid`. -/
theorem eq_invalid_of_read_invalidTable {c : Nat} {e : Entry} (h : Memory.read invalidTable c = some e) :
    e = .invalid := by
  rw [invalidTable, read_ofList] at h
  exact List.eq_of_mem_replicate (List.mem_of_getElem? h)

/-- Where an entry of a built table comes from, by BUILD's three phases, the last one first. -/
theorem read_buildTable_cases {cs : List Byte} {pad : Byte} {c : Nat} {e : Entry}
    (h : Memory.read (buildTable cs pad) c = some e) :
    (∃ ch v, (ch, v) ∈ cs.zipIdx ∧ ch.toNat = c ∧ e = .value (BitVec.ofNat 8 v)) ∨
    (c = pad.toNat ∧ e = .padding) ∨ e = .invalid := by
  obtain hvalue | hread := read_writeAlphabet_cases h
  · exact .inl hvalue
  · rw [read_write] at hread
    split at hread
    · next hc => exact .inr (.inl ⟨hc, (Option.some.inj hread).symm⟩)
    · exact .inr (.inr (eq_invalid_of_read_invalidTable hread))

/-- A value in a table built from at most 64 characters fits 6 bits, so every entry of such a table has a layout. -/
theorem layout_of_read_buildTable {cs : List Byte} {pad : Byte} {c : Nat} {e : Entry} (hlen : cs.length ≤ 64)
    (h : Memory.read (buildTable cs pad) c = some e) :
    ∃ b, Entry.layout e = some b ∧ (b < 0x40#8 ∨ b = 0x40#8 ∨ b = 0x80#8) := by
  obtain ⟨ch, v, hmem, -, rfl⟩ | ⟨-, rfl⟩ | rfl := read_buildTable_cases h
  · have hv : v < cs.length := List.snd_lt_of_mem_zipIdx hmem
    have hbyte : BitVec.ofNat 8 v < 64#8 := by bv_omega
    exact ⟨_, if_pos hbyte, .inl hbyte⟩
  · exact ⟨_, rfl, .inr (.inl rfl)⟩
  · exact ⟨_, rfl, .inr (.inr rfl)⟩

/-- Settles O9: the fields by the three kinds of entry, the bytes of a built table by the phase of BUILD that wrote
the cell. -/
theorem tableEntryLayout : Obligations.TableEntryLayout :=
  ⟨rfl, rfl, fun _ hv => if_pos hv, fun _ _ => fields_of_layout, fun _ _ _ _ => layout_of_read_buildTable⟩

end Sys2Proof.Machine

namespace Sys2Proof.Machine

/-! ## The host's reads (20_memory.md R49, 43_host_interface_and_variants.md R118, R122) -/

/-- Outside `DONE` the host gets no result. -/
theorem readResult_of_ne_done {u : UnitState} (h : u.state ≠ .done) : readResult u = none := if_neg h

/-- In `DONE` the host gets the first `OUT_LEN` cells of `OUT`. -/
theorem readResult_of_done {u : UnitState} (h : u.state = .done) :
    readResult u = Memory.readFrom u.outBuf 0 u.outLen := if_pos h

/-- A unit in `DONE` whose `OUT` holds exactly `OUT_LEN` bytes gives these bytes. -/
theorem readResult_of_outBuf_eq_ofList {u : UnitState} {bytes : List Byte} (hdone : u.state = .done)
    (hbuf : u.outBuf = Memory.ofList bytes) (hlen : u.outLen = bytes.length) : readResult u = some bytes := by
  rw [readResult_of_done hdone, hbuf, hlen, readFrom_ofList]

/-- `LUT_VALID[a]` as a bit has the flag's value. -/
@[simp] theorem lutValidBit_getLsbD_zero (s : State) (a : Asel) : (lutValidBit s a).getLsbD 0 = s.lutValid a := by
  rw [lutValidBit]
  cases s.lutValid a <;> rfl

/-- Bit 0 of the port `lut_valid` is `LUT_VALID[0]`. -/
theorem readStatus_lutValid_zero (s : State) (u : UnitState) : (readStatus s u).lutValid.getLsbD 0 = s.lutValid0 :=
  BitVec.getLsbD_append.trans (lutValidBit_getLsbD_zero s .general)

/-- Bit 1 of the port `lut_valid` is `LUT_VALID[1]`. -/
theorem readStatus_lutValid_one (s : State) (u : UnitState) : (readStatus s u).lutValid.getLsbD 1 = s.lutValid1 :=
  BitVec.getLsbD_append.trans (lutValidBit_getLsbD_zero s .urlSafe)

/-- Settles O57: the result by whether the unit is in `DONE`, the codes by their tables, the two bits of `lut_valid` by
the half of the concatenation each comes from. -/
theorem hostReadsOnlyInDone : Obligations.HostReadsOnlyInDone :=
  ⟨fun _ => readResult_of_ne_done, fun _ _ => readResult_of_outBuf_eq_ofList, ⟨rfl, rfl, rfl, rfl⟩,
    ⟨rfl, rfl, rfl, rfl⟩, fun s u =>
      ⟨rfl, rfl, rfl, rfl, readStatus_lutValid_zero s u, readStatus_lutValid_one s u⟩⟩

end Sys2Proof.Machine

namespace Sys2Proof

/-! ## The fields of a command word (30_encoding.md R60) -/

/-- A command word with the `ASEL` bit written out. -/
theorem cmdWord_eq_append (base : BitVec 2) (a : Asel) (op : BitVec 1) :
    cmdWord base a op = base ++ (if a = .general then 0#1 else 1#1) ++ op := by cases a <;> rfl

/-- The `ASEL` bit of an alphabet selects that alphabet. -/
@[simp] theorem Asel.ofBit_bit (a : Asel) : Asel.ofBit a.bit = a := by cases a <;> rfl

@[simp] theorem cmdBase_cmdWord (base : BitVec 2) (a : Asel) (op : BitVec 1) : cmdBase (cmdWord base a op) = base :=
  (BitVec.extractLsb'_append_eq_of_le (by decide)).trans BitVec.extractLsb'_append_eq_left

@[simp] theorem cmdAsel_cmdWord (base : BitVec 2) (a : Asel) (op : BitVec 1) : cmdAsel (cmdWord base a op) = a := by
  have hbit : (cmdWord base a op).extractLsb' 1 1 = a.bit :=
    (BitVec.extractLsb'_append_eq_of_le (by decide)).trans BitVec.extractLsb'_append_eq_right
  rw [cmdAsel, hbit, Asel.ofBit_bit]

@[simp] theorem cmdOp_cmdWord (base : BitVec 2) (a : Asel) (op : BitVec 1) : cmdOp (cmdWord base a op) = op :=
  BitVec.extractLsb'_append_eq_right

/-- Settles O3: a word put together from its fields has these fields, and the command map reads nothing else. -/
theorem commandWordFields : Obligations.CommandWordFields := by
  intro base a op
  rw [← cmdWord_eq_append]
  simp [decodeCmd]

end Sys2Proof

namespace Sys2Proof.Machine

/-! ## The class map (30_encoding.md R59) -/

/-- The row `1abcdefg`. -/
@[simp] theorem decodeGcw_badcharP0 (r : BitVec 7) : decodeGcw (0b1#1 ++ r) = .decBadcharP0 r := by revert r; decide

/-- The row `01abcdef`. -/
@[simp] theorem decodeGcw_badcharP1 (r : BitVec 6) : decodeGcw (0b01#2 ++ r) = .decBadcharP1 r := by revert r; decide

/-- The row `001abcde`. -/
@[simp] theorem decodeGcw_badcharP2 (r : BitVec 5) : decodeGcw (0b001#3 ++ r) = .decBadcharP2 r := by revert r; decide

/-- The row `0001abcd`. -/
@[simp] theorem decodeGcw_badcharP3 (r : BitVec 4) : decodeGcw (0b0001#4 ++ r) = .decBadcharP3 r := by revert r; decide

/-- The row `000001ab`. -/
@[simp] theorem decodeGcw_badpadP1 (r : BitVec 2) : decodeGcw (0b000001#6 ++ r) = .decBadpadP1 r := by revert r; decide

/-- The row `00001abc`. -/
@[simp] theorem decodeGcw_badpadP0 (r : BitVec 3) : decodeGcw (0b00001#5 ++ r) = .decBadpadP0 r := by revert r; decide

/-- The class of a word is the document's ordered test on its halves `INVF` and `PADF`: `Invalid` first, then the three
legal shapes, checked row by row of the map over the 256 words. -/
theorem instrClass_decodeGcw (g : BitVec 8) :
    instrClass (decodeGcw g) = some (
      if g.extractLsb' 4 4 ≠ 0#4 then .badChar
      else if g.extractLsb' 0 4 = 0b0000#4 then .full
      else if g.extractLsb' 0 4 = 0b0001#4 then .tail2
      else if g.extractLsb' 0 4 = 0b0011#4 then .tail1
      else .badPad) := by revert g; decide

/-- Any `INVF` bit selects `BADCHAR` whatever the `PADF` bits are. -/
theorem instrClass_decodeGcw_of_invf {g : BitVec 8} (h : g.extractLsb' 4 4 ≠ 0#4) :
    instrClass (decodeGcw g) = some .badChar := by
  rw [instrClass_decodeGcw, if_pos h]

/-- The class map is total. -/
theorem isSome_instrClass_decodeGcw (g : BitVec 8) : (instrClass (decodeGcw g)).isSome = true := by
  rw [instrClass_decodeGcw, Option.isSome_some]

/-- The four `BADCHAR` rows have 128, 64, 32 and 16 words. -/
theorem badChar_word_count :
    ((List.range 256).filter fun w => instrClass (decodeGcw (BitVec.ofNat 8 w)) = some .badChar).length
      = 128 + 64 + 32 + 16 := by decide +kernel

/-- The three `BADPAD` rows have 1, 4 and 8 words. -/
theorem badPad_word_count :
    ((List.range 256).filter fun w => instrClass (decodeGcw (BitVec.ofNat 8 w)) = some .badPad).length
      = 1 + 4 + 8 := by decide +kernel

/-- Settles O5: the six rows with free bits, the four fixed words, the counts, and `INVF` before `PADF`. -/
theorem classMapRows : Obligations.ClassMapRows :=
  ⟨decodeGcw_badcharP0, decodeGcw_badcharP1, decodeGcw_badcharP2, decodeGcw_badcharP3, rfl, rfl, rfl, rfl,
    decodeGcw_badpadP1, decodeGcw_badpadP0, badChar_word_count, fun _ => instrClass_decodeGcw_of_invf,
    badPad_word_count⟩

/-! ## The group classification word (30_encoding.md R58) -/

/-- The upper half of the word holds the `INV` bits and the lower half the `PADF` bits, position 0 leftmost. -/
theorem gcwOf_bits (e0 e1 e2 e3 : Byte) :
    (gcwOf e0 e1 e2 e3).getLsbD 7 = e0.getLsbD 7 ∧ (gcwOf e0 e1 e2 e3).getLsbD 6 = e1.getLsbD 7 ∧
    (gcwOf e0 e1 e2 e3).getLsbD 5 = e2.getLsbD 7 ∧ (gcwOf e0 e1 e2 e3).getLsbD 4 = e3.getLsbD 7 ∧
    (gcwOf e0 e1 e2 e3).getLsbD 3 = e0.getLsbD 6 ∧ (gcwOf e0 e1 e2 e3).getLsbD 2 = e1.getLsbD 6 ∧
    (gcwOf e0 e1 e2 e3).getLsbD 1 = e2.getLsbD 6 ∧ (gcwOf e0 e1 e2 e3).getLsbD 0 = e3.getLsbD 6 := by
  simp only [gcwOf, BitVec.getLsbD_append]
  simp [entryInv, entryPadf]

/-- A byte in the layout is never both `Invalid` and `Padding`. -/
theorem inv_and_padf_of_layout {x : Entry} {e : Byte} (h : Entry.layout x = some e) :
    (e.getLsbD 7 && e.getLsbD 6) = false := by
  obtain ⟨v, -, hv, rfl⟩ | ⟨-, rfl⟩ | ⟨-, rfl⟩ := layout_eq_some.mp h
  · have hinv : e.getLsbD 7 = false := by simpa [entryInv] using congrArg (·.getLsbD 0) (entryInv_of_lt hv)
    rw [hinv, Bool.false_and]
  · rfl
  · rfl

/-- In the word of four entries in the layout no position has both flags. -/
theorem gcwOf_flags_exclusive {x0 x1 x2 x3 : Entry} {e0 e1 e2 e3 : Byte} (h0 : Entry.layout x0 = some e0)
    (h1 : Entry.layout x1 = some e1) (h2 : Entry.layout x2 = some e2) (h3 : Entry.layout x3 = some e3) (k : Nat)
    (hk : k < 4) : ((gcwOf e0 e1 e2 e3).getLsbD (7 - k) && (gcwOf e0 e1 e2 e3).getLsbD (3 - k)) = false := by
  obtain ⟨i0, i1, i2, i3, p0, p1, p2, p3⟩ := gcwOf_bits e0 e1 e2 e3
  match k, hk with
  | 0, _ => rw [i0, p0, inv_and_padf_of_layout h0]
  | 1, _ => rw [i1, p1, inv_and_padf_of_layout h1]
  | 2, _ => rw [i2, p2, inv_and_padf_of_layout h2]
  | 3, _ => rw [i3, p3, inv_and_padf_of_layout h3]

/-- A word is consistent when no position has both flags. -/
theorem gcwConsistent_of_flags_exclusive {g : BitVec 8}
    (h : ∀ k, k < 4 → (g.getLsbD (7 - k) && g.getLsbD (3 - k)) = false) : gcwConsistent g = true := by
  rw [gcwConsistent, beq_iff_eq]
  ext i hi
  have hpos := h (3 - i) (by omega)
  rw [show 7 - (3 - i) = 4 + i by omega, show 3 - (3 - i) = i by omega] at hpos
  simpa [hi] using hpos

/-- The class that a word selects is well formed exactly when the word is consistent: a row with an `INVF` bit keeps
the word, and the other rows have no `INVF` bit. -/
theorem wellFormed_decodeGcw (g : BitVec 8) : (decodeGcw g).wellFormed = gcwConsistent g := by revert g; decide

/-- Settles O6: the bits of the concatenation, and the exclusive flags of the layout position by position. -/
theorem groupClassWordLayout : Obligations.GroupClassWordLayout := by
  refine ⟨gcwOf_bits, fun x0 x1 x2 x3 e0 e1 e2 e3 h0 h1 h2 h3 => ?_, isSome_instrClass_decodeGcw⟩
  have hflags := gcwOf_flags_exclusive h0 h1 h2 h3
  exact ⟨hflags, (wellFormed_decodeGcw _).trans (gcwConsistent_of_flags_exclusive hflags)⟩

/-! ## The sextets of a raw group (30_encoding.md R51 to R54) -/

/-- The top bits of a word from bit `k` up, as a shift. -/
theorem setWidth_extractLsb'_eq_ushiftRight {w k n : Nat} (b : BitVec w) (h : w ≤ k + n) :
    (b.extractLsb' k n).setWidth w = b >>> k := by
  ext i hi
  simp only [BitVec.getElem_setWidth, BitVec.getLsbD_extractLsb', BitVec.getElem_ushiftRight]
  by_cases hn : i < n
  · simp [hn]
  · simp [hn, BitVec.getLsbD_of_ge b (k + i) (by omega)]

/-- The low `n` bits of a word, as a mask of `n` ones. -/
theorem setWidth_extractLsb'_zero_eq_and {w n : Nat} (b : BitVec w) :
    (b.extractLsb' 0 n).setWidth w = b &&& (BitVec.allOnes n).setWidth w := by
  ext i hi
  simp [Bool.and_comm, hi, BitVec.getLsbD_eq_getElem]

/-- The parts of three bytes are the parts of four sextets, in the same order. -/
theorem bytes_append_eq_sextets_append (a : BitVec 6) (b : BitVec 2) (c d : BitVec 4) (e : BitVec 2) (f : BitVec 6) :
    (a ++ b) ++ (c ++ d) ++ (e ++ f) = a ++ (b ++ c) ++ (d ++ e) ++ f := by
  apply BitVec.eq_of_toNat_eq
  simp only [BitVec.toNat_append, Nat.shiftLeft_or_distrib, ← Nat.shiftLeft_add, Nat.or_assoc, Nat.add_assoc]

/-- The 24 bits of a raw group, as bytes and as sextets (R51): each byte is cut where a sextet ends. -/
theorem rawGroup_eq_sextets (b0 b1 b2 : Byte) :
    b0 ++ b1 ++ b2 = sextet0 b0 ++ sextet1 b0 b1 ++ sextet2 b1 b2 ++ sextet3 b2 :=
  calc
    b0 ++ b1 ++ b2 = (b0.extractLsb' 2 6 ++ b0.extractLsb' 0 2) ++ (b1.extractLsb' 4 4 ++ b1.extractLsb' 0 4) ++
          (b2.extractLsb' 6 2 ++ b2.extractLsb' 0 6) := by
      rw [BitVec.extractLsb'_append_extractLsb', BitVec.extractLsb'_append_extractLsb',
        BitVec.extractLsb'_append_extractLsb']
    _ = _ := bytes_append_eq_sextets_append ..

theorem setWidth_sextet0 (b0 : Byte) : (sextet0 b0).setWidth 8 = b0 >>> 2 :=
  setWidth_extractLsb'_eq_ushiftRight b0 (by decide)

theorem setWidth_sextet1 (b0 b1 : Byte) :
    (sextet1 b0 b1).setWidth 8 = ((b0 &&& 0x03#8) <<< 4) ||| (b1 >>> 4) := by
  rw [sextet1, BitVec.setWidth_append_eq_shiftLeft_setWidth_or, setWidth_extractLsb'_zero_eq_and,
    setWidth_extractLsb'_eq_ushiftRight b1 (by decide)]
  rfl

theorem setWidth_sextet2 (b1 b2 : Byte) :
    (sextet2 b1 b2).setWidth 8 = ((b1 &&& 0x0F#8) <<< 2) ||| (b2 >>> 6) := by
  rw [sextet2, BitVec.setWidth_append_eq_shiftLeft_setWidth_or, setWidth_extractLsb'_zero_eq_and,
    setWidth_extractLsb'_eq_ushiftRight b2 (by decide)]
  rfl

theorem setWidth_sextet3 (b2 : Byte) : (sextet3 b2).setWidth 8 = b2 &&& 0x3F#8 :=
  setWidth_extractLsb'_zero_eq_and b2

/-- A one-byte tail is a group whose second byte is zero. -/
theorem sextet1Tail_eq (b0 : Byte) : sextet1Tail b0 = sextet1 b0 0#8 := rfl

/-- A two-byte tail is a group whose third byte is zero. -/
theorem sextet2Tail_eq (b1 : Byte) : sextet2Tail b1 = sextet2 b1 0#8 := rfl

theorem setWidth_sextet1Tail (b0 : Byte) : (sextet1Tail b0).setWidth 8 = (b0 &&& 0x03#8) <<< 4 := by
  rw [sextet1Tail_eq, setWidth_sextet1, BitVec.zero_ushiftRight, BitVec.or_zero]

theorem setWidth_sextet2Tail (b1 : Byte) : (sextet2Tail b1).setWidth 8 = (b1 &&& 0x0F#8) <<< 2 := by
  rw [sextet2Tail_eq, setWidth_sextet2, BitVec.zero_ushiftRight, BitVec.or_zero]

/-- Settles O10: the raw group by its parts, each sextet by the shift and the mask of its bytes. -/
theorem sextetsOfBytes : Obligations.SextetsOfBytes := fun b0 b1 b2 =>
  ⟨rawGroup_eq_sextets b0 b1 b2, setWidth_sextet0 b0, setWidth_sextet1 b0 b1, setWidth_sextet2 b1 b2,
    setWidth_sextet3 b2, setWidth_sextet1Tail b0, setWidth_sextet2Tail b1⟩

end Sys2Proof.Machine

namespace Sys2Proof.Machine

/-! ## The table of BUILD is the whole-buffer function (40_table_build.md R70) -/

/-- The invalid table has its entry at every byte. -/
theorem read_invalidTable_toNat (c : Byte) : Memory.read invalidTable c.toNat = some .invalid := by
  rw [invalidTable, read_ofList]
  exact List.getElem?_replicate_of_lt c.isLt

/-- The invalid table has 256 cells. -/
theorem read_invalidTable_of_le {k : Nat} (hk : 256 ≤ k) : Memory.read invalidTable k = none := by
  rw [invalidTable, read_ofList]
  exact List.getElem?_eq_none (by rwa [List.length_replicate])

/-- A cell after BUILD's third phase: the value of the greatest index of its character, since a later write replaces an
earlier one (R71), or what stood there before. -/
theorem read_writeAlphabet_toNat (cs : List Byte) (i : Nat) (t : Memory Entry) (c : Byte) :
    Memory.read (writeAlphabet i cs t) c.toNat =
      ((lastIndexFrom i cs c).map fun j => Entry.value (BitVec.ofNat 8 j)).or (Memory.read t c.toNat) := by
  induction cs generalizing i t with
  | nil => rfl
  | cons x xs ih =>
    rw [writeAlphabet, ih, read_write, lastIndexFrom]
    cases lastIndexFrom (i + 1) xs c with
    | some j => rfl
    | none =>
      by_cases hx : x = c
      · simp [hx]
      · have hcell : c.toNat ≠ x.toNat := fun h => hx (BitVec.eq_of_toNat_eq h.symm)
        simp [hx, hcell]

/-- The third phase writes only the cells of bytes. -/
theorem read_writeAlphabet_of_le (cs : List Byte) (i : Nat) (t : Memory Entry) {k : Nat} (hk : 256 ≤ k) :
    Memory.read (writeAlphabet i cs t) k = Memory.read t k := by
  induction cs generalizing i t with
  | nil => rfl
  | cons x xs ih => rw [writeAlphabet, ih, read_write_other _ _ (by have := x.isLt; omega)]

/-- BUILD's three phases leave `build(A, p)` in the cell of every byte. -/
theorem read_buildTable_toNat (cs : List Byte) (pad c : Byte) :
    Memory.read (buildTable cs pad) c.toNat = some (build cs pad c) := by
  rw [buildTable, read_writeAlphabet_toNat, read_write, read_invalidTable_toNat, build]
  cases lastIndexFrom 0 cs c with
  | some j => rfl
  | none => by_cases hc : c = pad <;> simp [hc, BitVec.toNat_inj]

/-- A built table has no cell beyond those of the bytes. -/
theorem read_buildTable_of_le (cs : List Byte) (pad : Byte) {k : Nat} (hk : 256 ≤ k) :
    Memory.read (buildTable cs pad) k = none := by
  rw [buildTable, read_writeAlphabet_of_le _ _ _ hk, read_write_other _ _ (by have := pad.isLt; omega),
    read_invalidTable_of_le hk]

/-- The end of BUILD leaves the other table and its valid bit alone. -/
theorem withTable_lut_other (s : State) (t : Memory Entry) {a b : Asel} (h : b ≠ a) :
    (s.withTable t a).lut b = s.lut b ∧ (s.withTable t a).lutValid b = s.lutValid b := by
  cases a <;> cases b
  case general.general | urlSafe.urlSafe => exact absurd rfl h
  case general.urlSafe | urlSafe.general => exact ⟨rfl, rfl⟩

/-- Settles O20: the one state BUILD answers, its table by the three phases, all else by the laws of `withTable`. -/
theorem buildMakesTheTable : Obligations.BuildMakesTheTable := by
  intro s a hlo hhi
  obtain ⟨hlut, hvalid⟩ := withTable_lut s (buildTable (alphaOf s.params a) s.params.pad) a
  refine ⟨rfl, _, execBuild_eq_next.2 ⟨⟨hlo, hhi⟩, rfl⟩, hvalid, fun c => ?_, fun i hi => ?_,
    fun b hb => withTable_lut_other _ _ hb, withTable_kept _ _ _⟩
  · rw [hlut, read_buildTable_toNat]
  · rw [hlut, read_buildTable_of_le _ _ hi]

end Sys2Proof.Machine

namespace Sys2Proof.Machine

open Sys2Proof.Safety

/-! ## A full raw group (41_encoder.md R78) -/

/-- Appending writes its bytes from `OUT_LEN` on and no other cell (20_memory.md R35). -/
theorem appended_outAppend (u : UnitState) (bytes : List Byte) : appended u (u.outAppend bytes) bytes := by
  refine ⟨rfl, fun k c hk => ?_, fun i hi => read_writeFrom_other _ _ _ _ hi⟩
  obtain ⟨hlt, rfl⟩ := List.getElem?_eq_some_iff.mp hk
  exact read_writeFrom_at bytes u.outBuf u.outLen k hlt

/-- A sextet whose bits stand in the low end of a byte is that byte cut to six bits. -/
theorem setWidth_six_eq_sextet {x : Sextet} {b : Byte} (h : x.setWidth 8 = b) : b.setWidth 6 = x := by
  rw [← h, BitVec.setWidth_setWidth_of_le _ (by decide), BitVec.setWidth_eq]

/-- With an alphabet of 64 characters a substitution answers the character that `enc` takes (41_encoder.md R82). -/
theorem substChar_eq_alphabetFn {s : State} (h : alen s.params s.unit.asel = 64) (x : Sextet) :
    substChar s x = .next (alphabetFn s.params s.unit.asel x) :=
  substChar_of_alen x h

/-- `ENC.G3` completes when its three bytes are there and the alphabet has 64 characters. -/
theorem execEncG3_of_reads {s : State} {b0 b1 b2 : Byte} (halen : alen s.params s.unit.asel = 64)
    (h0 : readIn s.unit (3 * s.unit.gi) = .next b0) (h1 : readIn s.unit (3 * s.unit.gi + 1) = .next b1)
    (h2 : readIn s.unit (3 * s.unit.gi + 2) = .next b2) :
    execEncG3 s = .next (s.withUnit ((s.unit.withRaw3 b0 b1 b2).withQ
      (alphabetFn s.params s.unit.asel (sextet0 b0)) (alphabetFn s.params s.unit.asel (sextet1 b0 b1))
      (alphabetFn s.params s.unit.asel (sextet2 b1 b2)) (alphabetFn s.params s.unit.asel (sextet3 b2))).emit) := by
  simp only [execEncG3, h0, h1, h2, chain_next, substChar_eq_alphabetFn halen]

/-- Settles O24: the sextets as shifts and masks, the three reads, and the frame of the one state `ENC.G3` answers. -/
theorem fullRawGroupIsEncoded : Obligations.FullRawGroupIsEncoded := by
  refine ⟨rfl, fun s b0 b1 b2 halen hlt m0 m1 m2 => ?_⟩
  simp only [setWidth_six_eq_sextet (setWidth_sextet0 b0), setWidth_six_eq_sextet (setWidth_sextet1 b0 b1),
    setWidth_six_eq_sextet (setWidth_sextet2 b1 b2), setWidth_six_eq_sextet (setWidth_sextet3 b2)]
  have h0 := readIn_eq_next.mpr ⟨show 3 * s.unit.gi < s.unit.inLen by omega, m0⟩
  have h1 := readIn_eq_next.mpr ⟨show 3 * s.unit.gi + 1 < s.unit.inLen by omega, m1⟩
  have h2 := readIn_eq_next.mpr ⟨hlt, m2⟩
  exact ⟨_, execEncG3_of_reads halen h0 h1 h2, appended_outAppend _ _, rfl⟩

/-! ## The output length of an ENCODE (41_encoder.md R84) -/

/-- Each group of three bytes, and a last group of one or two, gives four characters. -/
theorem length_enc (A : Sextet → Byte) (pad : Byte) (input : List Byte) :
    (enc A pad input).length = encodedLen input.length := by
  unfold encodedLen
  induction input using enc.induct with
  | case1 => rfl
  | case2 b0 => simp [enc]
  | case3 b0 b1 => simp [enc]
  | case4 b0 b1 b2 rest ih =>
    simp only [enc, List.length_cons, ih]
    omega

/-- The length by full groups and a tail. -/
theorem encodedLen_eq_groups (n : Nat) :
    encodedLen n = if n % 3 = 0 then 4 * (n / 3) else 4 * (n / 3) + 4 := by
  unfold encodedLen
  split <;> omega

/-- The document's other expression of the length. -/
theorem encodedLen_eq_rounded (n : Nat) : encodedLen n = ((4 * n + 2) / 3 + 3) / 4 * 4 := by
  unfold encodedLen
  omega

/-- The step that finishes an ENCODE comes after the last full group, and appends four characters when bytes are left
over and none otherwise (41_encoder.md R77, R79 to R81). -/
theorem UnitStep.encode_done {s t : State} (h : UnitStep s t) (hb : s.unit.state = .busy)
    (hop : cmdOp s.unit.cmd = 0#1) (hd : t.unit.state = .done) :
    s.unit.ng ≤ s.unit.gi ∧ t.unit.outLen = s.unit.outLen + if s.unit.rem = 0#2 then 0 else 4 := by
  cases h with
  | rawGroup => simp [hb] at hd
  | tail0 _ _ hg hr => exact ⟨hg, by simp [hr]⟩
  | tail1 _ _ hg hr => exact ⟨hg, by simp [hr]⟩
  | tail2 _ _ hg hr => exact ⟨hg, by simp [hr]⟩
  | tail3 _ _ hg hr => exact ⟨hg, by simp [hr]⟩
  | stay hn | acceptEncode hn | acceptDecode hn => exact absurd hb hn
  | badLength _ hop' | goodLength _ hop' | emptyInput _ hop' | textGroup _ hop' | noGroup _ hop' =>
    exact absurd (hop.symm.trans hop') (by decide)

/-- From consistent counters the finishing step leaves the length of the whole input's encoding. -/
theorem UnitStep.outLen_of_encode_done {s t : State} (h : UnitStep s t) (hb : s.unit.state = .busy)
    (hop : cmdOp s.unit.cmd = 0#1) (hc : encodeCounters s.unit) (hd : t.unit.state = .done) :
    t.unit.outLen = encodedLen s.unit.inLen := by
  obtain ⟨hng, hrem, hgi, hout⟩ := hc
  obtain ⟨hlast, happ⟩ := h.encode_done hb hop hd
  have hrem0 : s.unit.rem = 0#2 ↔ s.unit.inLen % 3 = 0 := by rw [← hrem, BitVec.toNat_eq]; rfl
  rw [happ, encodedLen_eq_groups, hout, show s.unit.gi = s.unit.inLen / 3 by omega]
  simp only [hrem0]
  split <;> rfl

/-- Settles O30: by induction over the input, by arithmetic, and by what the finishing step appends. -/
theorem encodedLength : Obligations.EncodedLength := by
  refine ⟨length_enc, fun n => ⟨encodedLen_eq_groups n, Nat.mul_mod_right 4 _, encodedLen_eq_rounded n⟩, ?_⟩
  intro s t ⟨_, hrun, _⟩ hb hop h hd
  exact (unitTurn_eq_next h).outLen_of_encode_done hb hop (hrun hb hop) hd

/-! ## The encoder does not use the tables (41_encoder.md R87) -/

/-- Chaining twice is chaining once. -/
theorem chain_assoc {α β γ : Type} (o : Ans α) (f : α → Ans β) (g : β → Ans γ) :
    chain (chain o f) g = chain o fun a => chain (f a) g := by
  cases o <;> rfl

/-- The state with any content and any valid bits of both tables. -/
def State.replaceTables (s : State) (l0 l1 : Memory Entry) (v0 v1 : Bool) : State :=
  { s with lut0 := l0, lut1 := l1, lutValid0 := v0, lutValid1 := v1 }

/-- An operation neither reads nor writes a table or its valid bit: it answers the same whatever they hold. -/
def ignoresTables (f : State → Ans State) : Prop :=
  ∀ (s : State) (l0 l1 : Memory Entry) (v0 v1 : Bool),
    f (s.replaceTables l0 l1 v0 v1) = chain (f s) fun t => .next (t.replaceTables l0 l1 v0 v1)

/-- What replacing the tables leaves alone of what the encoder reads. -/
@[simp] theorem replaceTables_kept (s : State) (l0 l1 : Memory Entry) (v0 v1 : Bool) :
    (s.replaceTables l0 l1 v0 v1).unit = s.unit ∧ (s.replaceTables l0 l1 v0 v1).params = s.params := ⟨rfl, rfl⟩

theorem encodeCommand_ignoresTables (w : BitVec 4) : ignoresTables (encodeCommand w) := by
  intro s l0 l1 v0 v1
  simp only [encodeCommand, replaceTables_kept]
  split
  · rfl
  · split <;> rfl

theorem execEncG3_ignoresTables : ignoresTables execEncG3 := by
  intro s l0 l1 v0 v1
  simp only [execEncG3, chain_assoc]
  rfl

theorem execEncT1_ignoresTables : ignoresTables execEncT1 := by
  intro s l0 l1 v0 v1
  simp only [execEncT1, chain_assoc]
  rfl

theorem execEncT2_ignoresTables : ignoresTables execEncT2 := by
  intro s l0 l1 v0 v1
  simp only [execEncT2, chain_assoc]
  rfl

theorem execSubst_ignoresTables (q : Pos) (x : Sextet) : ignoresTables (execSubst q x) := by
  intro s l0 l1 v0 v1
  simp only [execSubst, chain_assoc]
  rfl

/-- Settles O29: operation by operation. -/
theorem encoderIgnoresTheTables : Obligations.EncoderIgnoresTheTables := by
  intro s l0 l1 v0 v1 i hi
  obtain ⟨a, rfl⟩ | rfl | rfl | rfl | rfl | rfl | ⟨q, x, rfl⟩ := hi
  · exact encodeCommand_ignoresTables (cmdWord 0#2 a 0#1) s l0 l1 v0 v1
  · exact encodeCommand_ignoresTables 0b0000#4 s l0 l1 v0 v1
  · exact execEncG3_ignoresTables s l0 l1 v0 v1
  · exact execEncT1_ignoresTables s l0 l1 v0 v1
  · exact execEncT2_ignoresTables s l0 l1 v0 v1
  · rfl
  · exact execSubst_ignoresTables q x s l0 l1 v0 v1

end Sys2Proof.Machine

namespace Sys2Proof.Machine

/-! ## Fetch and lookup of a text group (42_decoder.md R91, R92) -/

/-- `DEC.FETCH` completes when its four characters are there. -/
theorem execDecFetch_of_reads {s : State} {c0 c1 c2 c3 : Byte}
    (h0 : readIn s.unit (4 * s.unit.gi) = .next c0) (h1 : readIn s.unit (4 * s.unit.gi + 1) = .next c1)
    (h2 : readIn s.unit (4 * s.unit.gi + 2) = .next c2) (h3 : readIn s.unit (4 * s.unit.gi + 3) = .next c3) :
    execDecFetch s = .next (s.withUnit { s.unit with k0 := c0, k1 := c1, k2 := c2, k3 := c3 }) := by
  simp only [execDecFetch, h0, h1, h2, h3, chain_next]

/-- Settles O34: the last index is below `IN_LEN`, so all four reads answer. -/
theorem textGroupIsFetched : Obligations.TextGroupIsFetched := by
  intro s c0 c1 c2 c3 hlt m0 m1 m2 m3
  have h0 := readIn_eq_next.mpr ⟨show 4 * s.unit.gi < s.unit.inLen by omega, m0⟩
  have h1 := readIn_eq_next.mpr ⟨show 4 * s.unit.gi + 1 < s.unit.inLen by omega, m1⟩
  have h2 := readIn_eq_next.mpr ⟨show 4 * s.unit.gi + 2 < s.unit.inLen by omega, m2⟩
  have h3 := readIn_eq_next.mpr ⟨hlt, m3⟩
  exact execDecFetch_of_reads h0 h1 h2 h3

/-- `DEC.LOOKUP` completes when its four lookups answer. -/
theorem execDecLookup_of_reads {s : State} {e0 e1 e2 e3 : Byte}
    (h0 : readLut s s.unit.k0 = .next e0) (h1 : readLut s s.unit.k1 = .next e1)
    (h2 : readLut s s.unit.k2 = .next e2) (h3 : readLut s s.unit.k3 = .next e3) :
    execDecLookup s = .next (s.withUnit (s.unit.withEntries e0 e1 e2 e3)) := by
  simp only [execDecLookup, h0, h1, h2, h3, chain_next]

/-- Settles O35: the table holds every character's entry, so all four lookups answer. -/
theorem textGroupIsLookedUp : Obligations.TextGroupIsLookedUp := by
  intro s e0 e1 e2 e3 halen htable l0 l1 l2 l3
  have hlookup {c e : Byte} (h : Entry.layout (tableFn s.params s.unit.asel c) = some e) : readLut s c = .next e :=
    readLut_eq_next.mpr ⟨halen, _, htable c, h⟩
  exact execDecLookup_of_reads (hlookup l0) (hlookup l1) (hlookup l2) (hlookup l3)

/-! ## The empty input of a DECODE (42_decoder.md R104) -/

/-- The first step of a running DECODE is `DEC.LEN`, then `DEC.END` if there is no group (42_decoder.md R89). -/
theorem unitTurn_of_lengthCheck {s : State} (hb : s.unit.state = .busy) (hop : cmdOp s.unit.cmd = 1#1)
    (hp : s.unit.phase = .lengthCheck) : unitTurn s = chain (execDecLen s) endIfComplete := by
  have hdecode : unitTurn s = decodeTurn s := by simp [unitTurn, hb, hop]
  rw [hdecode, decodeTurn, hp]
  rfl

/-- `DEC.END` finishes a running command with no group left (42_decoder.md R103). -/
theorem endIfComplete_of_le {s : State} (hb : s.unit.state = .busy) (hg : s.unit.ng ≤ s.unit.gi) :
    endIfComplete s = .next (s.withUnit s.unit.finish) :=
  if_pos ⟨hb, hg⟩

/-- `DEC.LEN` passes a length that is a multiple of 4 (42_decoder.md R90). -/
theorem execDecLen_of_mod_eq_zero {s : State} (h : s.unit.inLen % 4 = 0) :
    execDecLen s = .next (s.withUnit { s.unit with ng := s.unit.inLen / 4, phase := .groups }) :=
  if_neg fun hne => hne h

/-- Settles O45: the length 0 passes `DEC.LEN` with `NG = 0`, so `DEC.END` follows in the same step. -/
theorem emptyInputDecodes : Obligations.EmptyInputDecodes := by
  intro s hb hop hp hlen _ hout
  have hng : s.unit.inLen / 4 = 0 := by simp [hlen]
  have hend := endIfComplete_of_le (s := s.withUnit { s.unit with ng := s.unit.inLen / 4, phase := .groups }) hb
    (Nat.le_trans (Nat.le_of_eq hng) (Nat.zero_le _))
  have hstep : unitTurn s =
      .next (s.withUnit { s.unit with ng := s.unit.inLen / 4, phase := .groups }.finish) := by
    rw [unitTurn_of_lengthCheck hb hop hp, execDecLen_of_mod_eq_zero (by simp [hlen]), chain_next, hend]
    rfl
  exact ⟨_, hstep, hng, hout, rfl, rfl⟩

end Sys2Proof.Machine

namespace Sys2Proof.Machine

/-! ## The wrappers (43_host_interface_and_variants.md R114, R115) -/

/-- The word of `ENCODE 0` is the one `B64ENCODE` has. -/
theorem cmdWord_encode_general : cmdWord 0#2 .general 0#1 = 0b0000#4 := by decide

/-- The word of `DECODE 0` is the one `B64DECODE` has. -/
theorem cmdWord_decode_general : cmdWord 0#2 .general 1#1 = 0b0001#4 := by decide

theorem encode_b64encode : encode .b64encode = encode (.encode .general) := by
  rw [encode, encode, cmdWord_encode_general]

theorem encode_b64decode : encode .b64decode = encode (.decode .general) := by
  rw [encode, encode, cmdWord_decode_general]

theorem exec_b64encode (s : State) : exec .b64encode s = exec (.encode .general) s := by
  change encodeCommand 0b0000#4 s = encodeCommand (cmdWord 0#2 .general 0#1) s
  rw [cmdWord_encode_general]

theorem exec_b64decode (s : State) : exec .b64decode s = exec (.decode .general) s := by
  change decodeCommand .general 0b0001#4 s = decodeCommand .general (cmdWord 0#2 .general 1#1) s
  rw [cmdWord_decode_general]

/-- Settles O17: a wrapper accepts its command under the very word that `ENCODE 0` or `DECODE 0` has. -/
theorem wrappersAreSpellings : Obligations.WrappersAreSpellings :=
  ⟨encode_b64encode, encode_b64decode, exec_b64encode, exec_b64decode⟩

/-! ## The reserved commands (43_host_interface_and_variants.md R117) -/

theorem exec_reservedBase16 (a : Asel) (op : BitVec 1) (s : State) :
    exec (.reservedBase16 a op) s = .refused .reservedBase16 := rfl

theorem exec_reservedBase32 (a : Asel) (op : BitVec 1) (s : State) :
    exec (.reservedBase32 a op) s = .refused .reservedBase32 := rfl

theorem exec_reservedBase3 (a : Asel) (op : BitVec 1) (s : State) :
    exec (.reservedBase3 a op) s = .refused .reservedBase3 := rfl

theorem decodeCmd_of_base_one {w : BitVec 4} (h : cmdBase w = 1#2) :
    decodeCmd w = .reservedBase16 (cmdAsel w) (cmdOp w) := by simp [decodeCmd, h]

theorem decodeCmd_of_base_two {w : BitVec 4} (h : cmdBase w = 2#2) :
    decodeCmd w = .reservedBase32 (cmdAsel w) (cmdOp w) := by simp [decodeCmd, h]

theorem decodeCmd_of_base_three {w : BitVec 4} (h : cmdBase w = 3#2) :
    decodeCmd w = .reservedBase3 (cmdAsel w) (cmdOp w) := by simp [decodeCmd, h]

/-- Settles O19: the `BASE` field alone selects the reserved operation, and each refuses by the name of its base
whatever the state and the other fields. -/
theorem reservedCommandsAreRefused : Obligations.ReservedCommandsAreRefused := by
  intro s w
  refine ⟨fun h => ?_, fun h => ?_, fun h => ?_, fun a op => ?_⟩
  · rw [decodeCmd_of_base_one h, exec_reservedBase16]
  · rw [decodeCmd_of_base_two h, exec_reservedBase32]
  · rw [decodeCmd_of_base_three h, exec_reservedBase3]
  · exact ⟨exec_reservedBase16 a op s, exec_reservedBase32 a op s, exec_reservedBase3 a op s⟩

end Sys2Proof.Machine

namespace Sys2Proof.Machine

/-! ## The whole-buffer decoder group by group (42_decoder.md R93, R108; 60_exceptions.md R130) -/

/-- Any `Invalid` of a group makes it a bad-character group, before its padding is looked at. -/
theorem classify_of_invalid {e0 e1 e2 e3 : Entry}
    (h : e0 = .invalid ∨ e1 = .invalid ∨ e2 = .invalid ∨ e3 = .invalid) : classify e0 e1 e2 e3 = .badChar := if_pos h

@[simp] theorem classify_values (v0 v1 v2 v3 : Byte) :
    classify (.value v0) (.value v1) (.value v2) (.value v3) = .full := by simp [classify]

@[simp] theorem classify_values_padding (v0 v1 v2 : Byte) :
    classify (.value v0) (.value v1) (.value v2) .padding = .tail2 := by simp [classify]

@[simp] theorem classify_values_padding_padding (v0 v1 : Byte) :
    classify (.value v0) (.value v1) .padding .padding = .tail1 := by simp [classify]

section
variable {table : Byte → Entry} {policy : TrailPolicy} {c0 c1 c2 c3 : Byte} {rest acc : List Byte}

theorem decGo_of_badChar (h : classify (table c0) (table c1) (table c2) (table c3) = .badChar) :
    decGo table policy (c0 :: c1 :: c2 :: c3 :: rest) acc = .error .badCharacter := by
  simp only [decGo, h]

theorem decGo_of_badPad (h : classify (table c0) (table c1) (table c2) (table c3) = .badPad) :
    decGo table policy (c0 :: c1 :: c2 :: c3 :: rest) acc = .error .badPadding := by
  simp only [decGo, h]

theorem decGo_of_full (h : classify (table c0) (table c1) (table c2) (table c3) = .full) :
    decGo table policy (c0 :: c1 :: c2 :: c3 :: rest) acc =
      decGo table policy rest (acc ++ [outByte0 (table c0).sextet (table c1).sextet,
        outByte1 (table c1).sextet (table c2).sextet, outByte2 (table c2).sextet (table c3).sextet]) := by
  simp only [decGo, h]

theorem decGo_of_tail2 (h : classify (table c0) (table c1) (table c2) (table c3) = .tail2) :
    decGo table policy (c0 :: c1 :: c2 :: c3 :: rest) acc =
      if policy = .reject ∧ rest ≠ [] then .error .badPadding
      else .ok (acc ++ [outByte0 (table c0).sextet (table c1).sextet, outByte1 (table c1).sextet (table c2).sextet]) := by
  simp only [decGo, h]

theorem decGo_of_tail1 (h : classify (table c0) (table c1) (table c2) (table c3) = .tail1) :
    decGo table policy (c0 :: c1 :: c2 :: c3 :: rest) acc =
      if policy = .reject ∧ rest ≠ [] then .error .badPadding
      else .ok (acc ++ [outByte0 (table c0).sextet (table c1).sextet]) := by
  simp only [decGo, h]

/-- Under `REJECT` a legal shape with groups after it is the error `BadPadding`. -/
theorem decGo_of_tail_of_reject (hrest : rest ≠ []) (hpol : policy = .reject)
    (h : classify (table c0) (table c1) (table c2) (table c3) = .tail2 ∨
      classify (table c0) (table c1) (table c2) (table c3) = .tail1) :
    decGo table policy (c0 :: c1 :: c2 :: c3 :: rest) acc = .error .badPadding := by
  obtain h2 | h1 := h
  · rw [decGo_of_tail2 h2, if_pos ⟨hpol, hrest⟩]
  · rw [decGo_of_tail1 h1, if_pos ⟨hpol, hrest⟩]

/-- Under `IGNORE`, or with no group left, the test for trailing groups under `REJECT` fails. -/
theorem not_trailing_of_ignore_or_nil (hend : policy = .ignore ∨ rest = []) :
    ¬ (policy = .reject ∧ rest ≠ []) := by
  rintro ⟨rfl, hrest⟩
  simp [hrest] at hend

/-- Two values before two paddings end the decode with one byte, unless groups follow under `REJECT`. -/
theorem decGo_of_value_value_padding_padding {v0 v1 : Byte} (hend : policy = .ignore ∨ rest = [])
    (h0 : table c0 = .value v0) (h1 : table c1 = .value v1) (h2 : table c2 = .padding) (h3 : table c3 = .padding) :
    decGo table policy (c0 :: c1 :: c2 :: c3 :: rest) acc =
      .ok (acc ++ [outByte0 (v0.setWidth 6) (v1.setWidth 6)]) := by
  rw [decGo_of_tail1 (by simp [h0, h1, h2, h3]), if_neg (not_trailing_of_ignore_or_nil hend), h0, h1]
  rfl

/-- Three values before a `Padding` end the decode with two bytes, unless groups follow under `REJECT`. -/
theorem decGo_of_value_value_value_padding {v0 v1 v2 : Byte} (hend : policy = .ignore ∨ rest = [])
    (h0 : table c0 = .value v0) (h1 : table c1 = .value v1) (h2 : table c2 = .value v2) (h3 : table c3 = .padding) :
    decGo table policy (c0 :: c1 :: c2 :: c3 :: rest) acc =
      .ok (acc ++ [outByte0 (v0.setWidth 6) (v1.setWidth 6), outByte1 (v1.setWidth 6) (v2.setWidth 6)]) := by
  rw [decGo_of_tail2 (by simp [h0, h1, h2, h3]), if_neg (not_trailing_of_ignore_or_nil hend), h0, h1, h2]
  rfl

end

/-- Groups of values are decoded one after the other, and what follows them is decoded after their bytes. -/
theorem decGo_values_append (table : Byte → Entry) (policy : TrailPolicy) :
    ∀ before acc : List Byte, before.length % 4 = 0 → (∀ c ∈ before, ∃ v, table c = .value v) →
      ∃ bytes, ∀ rest, decGo table policy (before ++ rest) acc = decGo table policy rest bytes
  | [], acc, _, _ => ⟨acc, fun _ => rfl⟩
  | c0 :: c1 :: c2 :: c3 :: before, acc, hlen, hval => by
    simp only [List.forall_mem_cons] at hval
    obtain ⟨⟨v0, h0⟩, ⟨v1, h1⟩, ⟨v2, h2⟩, ⟨v3, h3⟩, hval⟩ := hval
    have hfull : classify (table c0) (table c1) (table c2) (table c3) = .full := by simp [h0, h1, h2, h3]
    have hlen' : before.length % 4 = 0 := (Nat.add_mod_right _ 4).symm.trans hlen
    obtain ⟨bytes, hgo⟩ := decGo_values_append table policy before _ hlen' hval
    exact ⟨bytes, fun rest => (decGo_of_full hfull).trans (hgo rest)⟩
  | [_], _, hlen, _ | [_, _], _, hlen, _ | [_, _, _], _, hlen, _ => by simp at hlen

theorem dec_of_length_mod_ne {table : Byte → Entry} {policy : TrailPolicy} {text : List Byte}
    (h : text.length % 4 ≠ 0) : dec table policy text = .error .badFormat := if_pos h

theorem dec_of_length_mod_eq {table : Byte → Entry} {policy : TrailPolicy} {text : List Byte}
    (h : text.length % 4 = 0) : dec table policy text = decGo table policy text [] := if_neg fun hne => hne h

/-- After groups of values, `dec` goes on at the next group with the bytes that it gives for these groups alone. -/
theorem dec_values_append {table : Byte → Entry} {before : List Byte} (policy : TrailPolicy)
    (hlen : before.length % 4 = 0) (hval : ∀ c ∈ before, ∃ v, table c = .value v) :
    ∃ bytes, dec table policy before = .ok bytes ∧
      ∀ text : List Byte, text.length % 4 = 0 → dec table policy (before ++ text) = decGo table policy text bytes := by
  obtain ⟨bytes, hgo⟩ := decGo_values_append table policy before [] hlen hval
  refine ⟨bytes, ?_, fun text htext => ?_⟩
  · have hnil := hgo []
    rw [List.append_nil] at hnil
    rw [dec_of_length_mod_eq hlen, hnil, decGo]
  · have hsum : (before ++ text).length % 4 = 0 := by rw [List.length_append]; omega
    rw [dec_of_length_mod_eq hsum, hgo]

/-- Settles O43: the length is tested first; then the groups of values before are decoded whatever follows them, and the
class of the next group alone decides. -/
theorem firstFailingGroupDecides : Obligations.FirstFailingGroupDecides := by
  intro table policy
  refine ⟨fun _ => dec_of_length_mod_ne, fun before rest c0 c1 c2 c3 hbefore hval hrest => ?_⟩
  obtain ⟨bytes, hbytes, happend⟩ := dec_values_append policy hbefore hval
  have hgroup : dec table policy (before ++ [c0, c1, c2, c3] ++ rest) =
      decGo table policy (c0 :: c1 :: c2 :: c3 :: rest) bytes := by
    rw [List.append_assoc]
    exact happend _ ((Nat.add_mod_right _ 4).trans hrest)
  rw [hgroup]
  exact ⟨fun hinv => decGo_of_badChar (classify_of_invalid hinv), decGo_of_badPad, decGo_of_tail_of_reject,
    fun v0 v1 hend h0 h1 h3 => ⟨bytes, hbytes,
      fun v2 h2 => decGo_of_value_value_value_padding hend h0 h1 h2 h3,
      fun h2 => decGo_of_value_value_padding_padding hend h0 h1 h2 h3⟩⟩

end Sys2Proof.Machine

namespace Sys2Proof

open Sys2Proof.Machine

/-! ## Words and operations (30_encoding.md R59 to R62) -/

/-- The number of a word decodes as the word. -/
@[simp] theorem decodeWord_cmd4_toNat (w : BitVec 4) : decodeWord .cmd4 w.toNat = .ok (decodeCmd w) := by
  simp [decodeWord, w.isLt]

@[simp] theorem decodeWord_cnt2_toNat (w : BitVec 2) : decodeWord .cnt2 w.toNat = .ok (decodeCnt w) := by
  simp [decodeWord, w.isLt]

@[simp] theorem decodeWord_gcw8_toNat (w : BitVec 8) : decodeWord .gcw8 w.toNat = .ok (decodeGcw w) := by
  simp [decodeWord, w.isLt]

/-- The command map reads the fields a word is put together from (R60). -/
@[simp] theorem decodeCmd_cmdWord (base : BitVec 2) (a : Asel) (op : BitVec 1) :
    decodeCmd (cmdWord base a op) =
      if base = 0#2 then if op = 0#1 then .encode a else .decode a
      else if base = 1#2 then .reservedBase16 a op
      else if base = 2#2 then .reservedBase32 a op
      else .reservedBase3 a op := by
  simp [decodeCmd]

/-- The word of an operation decodes to the operation it spells: each row by the map of its format, the rows with
operands by the map's equation for every value of them. -/
theorem decodeWord_of_encode {i : Instr} {f : Format} {w : Nat} (h : encode i = some (f, w)) :
    decodeWord f w = .ok i.core := by
  cases i <;> cases h
  case b64encode | b64decode | encG3 | encT1 | encT2 | encT0 | decFull | decTail2 | decTail1 | decBadpadP2 => rfl
  case encode | decode | reservedBase16 | reservedBase32 | reservedBase3 =>
    rw [decodeWord_cmd4_toNat, decodeCmd_cmdWord]; rfl
  case decBadcharP0 r => rw [decodeWord_gcw8_toNat, decodeGcw_badcharP0]; rfl
  case decBadcharP1 r => rw [decodeWord_gcw8_toNat, decodeGcw_badcharP1]; rfl
  case decBadcharP2 r => rw [decodeWord_gcw8_toNat, decodeGcw_badcharP2]; rfl
  case decBadcharP3 r => rw [decodeWord_gcw8_toNat, decodeGcw_badcharP3]; rfl
  case decBadpadP1 r => rw [decodeWord_gcw8_toNat, decodeGcw_badpadP1]; rfl
  case decBadpadP0 r => rw [decodeWord_gcw8_toNat, decodeGcw_badpadP0]; rfl

/-- The operation each command word selects has that word. -/
theorem encode_decodeCmd (w : BitVec 4) : encode (decodeCmd w) = some (.cmd4, w.toNat) := by revert w; decide

/-- The group operation each `CNT` selects has that `CNT`. -/
theorem encode_decodeCnt (w : BitVec 2) : encode (decodeCnt w) = some (.cnt2, w.toNat) := by revert w; decide

/-- The class each `GCW` selects, with the bits its row leaves open, has that `GCW`. -/
theorem encode_decodeGcw (w : BitVec 8) : encode (decodeGcw w) = some (.gcw8, w.toNat) := by revert w; decide

/-- The operation a word decodes to has that word: the format's map, at a number below its bound. -/
theorem encode_of_decodeWord {f : Format} {w : Nat} {i : Instr} (h : decodeWord f w = .ok i) :
    encode i = some (f, w) := by
  cases f <;> simp only [decodeWord] at h <;> split at h <;> cases h
  case cmd4 hw => rw [encode_decodeCmd, BitVec.toNat_ofNat, Nat.mod_eq_of_lt hw]
  case cnt2 hw => rw [encode_decodeCnt, BitVec.toNat_ofNat, Nat.mod_eq_of_lt hw]
  case gcw8 hw => rw [encode_decodeGcw, BitVec.toNat_ofNat, Nat.mod_eq_of_lt hw]

/-- Settles O8: operation by operation one way, format by format the other. -/
theorem encodedWordsDecode : Obligations.EncodedWordsDecode :=
  ⟨fun _ _ _ => decodeWord_of_encode, fun _ _ _ => encode_of_decodeWord⟩

/-- Settles O2: each word through the map of its format. -/
theorem specWordsDecode : Obligations.SpecWordsDecode := by
  unfold Obligations.SpecWordsDecode
  decide

end Sys2Proof

namespace Sys2Proof.Machine

/-! ## The class of a group (30_encoding.md R58, 42_decoder.md R93) -/

/-- The class of a word, flag by flag: the validator's ordered test. -/
theorem instrClass_of_flags (i0 i1 i2 i3 p0 p1 p2 p3 : BitVec 1) :
    instrClass (decodeGcw (i0 ++ i1 ++ i2 ++ i3 ++ p0 ++ p1 ++ p2 ++ p3)) = some (
      if i0 = 1#1 ∨ i1 = 1#1 ∨ i2 = 1#1 ∨ i3 = 1#1 then .badChar
      else if p0 ≠ 1#1 ∧ p1 ≠ 1#1 ∧ p2 ≠ 1#1 ∧ p3 ≠ 1#1 then .full
      else if p0 ≠ 1#1 ∧ p1 ≠ 1#1 ∧ p2 ≠ 1#1 ∧ p3 = 1#1 then .tail2
      else if p0 ≠ 1#1 ∧ p1 ≠ 1#1 ∧ p2 = 1#1 ∧ p3 = 1#1 then .tail1
      else .badPad) := by
  revert i0 i1 i2 i3 p0 p1 p2 p3; decide +kernel

/-- The flags of an entry's byte are its tag, so the class of the word of four entries is the validator's. -/
theorem instrClass_gcwOf {x0 x1 x2 x3 : Entry} {e0 e1 e2 e3 : Byte} (h0 : Entry.layout x0 = some e0)
    (h1 : Entry.layout x1 = some e1) (h2 : Entry.layout x2 = some e2) (h3 : Entry.layout x3 = some e3) :
    instrClass (decodeGcw (gcwOf e0 e1 e2 e3)) = some (classify x0 x1 x2 x3) := by
  obtain ⟨i0, p0, -⟩ := fields_of_layout h0
  obtain ⟨i1, p1, -⟩ := fields_of_layout h1
  obtain ⟨i2, p2, -⟩ := fields_of_layout h2
  obtain ⟨i3, p3, -⟩ := fields_of_layout h3
  simp only [gcwOf, instrClass_of_flags, classify, i0, i1, i2, i3, p0, p1, p2, p3, ne_eq]

/-- Settles O7: the flags of `GCW` are the tags of the entries. -/
theorem classMapAgreesWithValidator : Obligations.ClassMapAgreesWithValidator :=
  fun _ _ _ _ _ _ _ _ => instrClass_gcwOf

/-! ## The bytes of four sextets (30_encoding.md R56) -/

theorem outByte0_eq_shifts (v0 v1 : Sextet) :
    outByte0 v0 v1 = ((v0.setWidth 16 <<< 2) ||| (v1.setWidth 16 >>> 4)).setWidth 8 := by
  apply BitVec.eq_of_getLsbD_eq
  intro i hi
  rw [outByte0, BitVec.getLsbD_append]
  by_cases h : i < 2
  · simp [h, hi, show 4 + i < 16 by omega]
  · simp [h, hi, show i < 16 by omega, BitVec.getLsbD_of_ge v1 (4 + i) (by omega)]

theorem outByte1_eq_shifts (v1 v2 : Sextet) :
    outByte1 v1 v2 = ((v1.setWidth 16 <<< 4) ||| (v2.setWidth 16 >>> 2)).setWidth 8 := by
  apply BitVec.eq_of_getLsbD_eq
  intro i hi
  rw [outByte1, BitVec.getLsbD_append]
  by_cases h : i < 4
  · simp [h, hi, show 2 + i < 16 by omega]
  · simp [h, hi, show i < 16 by omega, show i - 4 < 4 by omega, BitVec.getLsbD_of_ge v2 (2 + i) (by omega)]

theorem outByte2_eq_shifts (v2 v3 : Sextet) :
    outByte2 v2 v3 = ((v2.setWidth 16 <<< 6) ||| v3.setWidth 16).setWidth 8 := by
  apply BitVec.eq_of_getLsbD_eq
  intro i hi
  rw [outByte2, BitVec.getLsbD_append]
  by_cases h : i < 6
  · simp [h, hi]
  · simp [h, hi, show i - 6 < 2 by omega, BitVec.getLsbD_of_ge v3 i (by omega)]

/-- A byte put together from the sextets that hold its two parts is the byte. -/
theorem outByte0_sextets (b0 b1 : Byte) : outByte0 (sextet0 b0) (sextet1 b0 b1) = b0 := by
  rw [outByte0, sextet0, sextet1, BitVec.extractLsb'_append_eq_left]
  exact BitVec.extractLsb'_append_extractLsb'

theorem outByte1_sextets (b0 b1 b2 : Byte) : outByte1 (sextet1 b0 b1) (sextet2 b1 b2) = b1 := by
  rw [outByte1, sextet1, sextet2, BitVec.extractLsb'_append_eq_right, BitVec.extractLsb'_append_eq_left]
  exact BitVec.extractLsb'_append_extractLsb'

theorem outByte2_sextets (b1 b2 : Byte) : outByte2 (sextet2 b1 b2) (sextet3 b2) = b2 := by
  rw [outByte2, sextet3, sextet2, BitVec.extractLsb'_append_eq_right]
  exact BitVec.extractLsb'_append_extractLsb'

/-- Settles O11: the shifts bit by bit; a byte is cut in two where a sextet ends, and a tail is a group whose missing byte
is zero. -/
theorem bytesOfSextets : Obligations.BytesOfSextets :=
  ⟨fun v0 v1 v2 v3 => ⟨outByte0_eq_shifts v0 v1, outByte1_eq_shifts v1 v2, outByte2_eq_shifts v2 v3⟩,
    fun b0 b1 b2 => ⟨outByte0_sextets b0 b1, outByte1_sextets b0 b1 b2, outByte2_sextets b1 b2,
      outByte1_sextets b0 b1 0#8, outByte0_sextets b0 0#8⟩⟩

end Sys2Proof.Machine

namespace Sys2Proof.Machine

open Sys2Proof.Safety

/-! ## The table of an alphabet (40_table_build.md R70, R71, R76) -/

/-- A character has no index exactly when it is not in the alphabet. -/
theorem lastIndexFrom_eq_none {cs : List Byte} {i : Nat} {c : Byte} : lastIndexFrom i cs c = none ↔ c ∉ cs := by
  induction cs generalizing i with
  | nil => simp [lastIndexFrom]
  | cons x xs ih =>
    rw [lastIndexFrom]
    cases hrest : lastIndexFrom (i + 1) xs c with
    | some j =>
      have hmem : c ∈ xs := Decidable.not_not.mp fun hn => by
        rw [ih.mpr hn] at hrest
        cases hrest
      simp [hmem]
    | none =>
      have hmem : c ∉ xs := ih.mp hrest
      by_cases hx : x = c
      · simp [hx]
      · simp [hx, hmem, Ne.symm hx]

/-- The index found holds the character, and no later one does. -/
theorem lastIndexFrom_eq_some {cs : List Byte} {i j : Nat} {c : Byte} (h : lastIndexFrom i cs c = some j) :
    ∃ n, j = i + n ∧ cs[n]? = some c ∧ ∀ k, n < k → cs[k]? ≠ some c := by
  induction cs generalizing i j with
  | nil => cases h
  | cons x xs ih =>
    rw [lastIndexFrom] at h
    cases hrest : lastIndexFrom (i + 1) xs c with
    | some j' =>
      obtain ⟨n, hj, hn, hlast⟩ := ih hrest
      rw [hrest] at h
      cases h
      refine ⟨n + 1, by omega, hn, fun k hk => ?_⟩
      obtain ⟨k, rfl⟩ : ∃ m, k = m + 1 := ⟨k - 1, by omega⟩
      exact hlast k (by omega)
    | none =>
      have hmem : c ∉ xs := lastIndexFrom_eq_none.mp hrest
      rw [hrest] at h
      obtain ⟨hx, hj⟩ : x = c ∧ i = j := by simpa using h
      refine ⟨0, hj.symm, by simp [hx], fun k hk hc => ?_⟩
      obtain ⟨k, rfl⟩ : ∃ m, k = m + 1 := ⟨k - 1, by omega⟩
      exact hmem (List.mem_of_getElem? hc)

/-- The entry of a character of the alphabet is the value of its last index (R71). -/
theorem build_of_last {cs : List Byte} {pad c : Byte} {j : Nat} (hj : cs[j]? = some c)
    (hlast : ∀ k, j < k → cs[k]? ≠ some c) : build cs pad c = .value (BitVec.ofNat 8 j) := by
  rw [build]
  cases h : lastIndexFrom 0 cs c with
  | none => exact absurd (List.mem_of_getElem? hj) (lastIndexFrom_eq_none.mp h)
  | some m =>
    obtain ⟨n, hm, hn, hlast'⟩ := lastIndexFrom_eq_some h
    have hnj : n = j := by
      rcases Nat.lt_trichotomy n j with hlt | heq | hgt
      · exact absurd hj (hlast' j hlt)
      · exact heq
      · exact absurd hn (hlast n hgt)
    rw [hm, hnj, Nat.zero_add]

/-- The entry of a byte outside the alphabet. -/
theorem build_of_not_mem {cs : List Byte} {pad c : Byte} (h : c ∉ cs) :
    build cs pad c = if c = pad then .padding else .invalid := by
  rw [build, lastIndexFrom_eq_none.mpr h]

/-- A value in a table comes from the last index of the byte. -/
theorem build_eq_value {cs : List Byte} {pad c v : Byte} (h : build cs pad c = .value v) :
    ∃ n, v = BitVec.ofNat 8 n ∧ cs[n]? = some c ∧ ∀ k, n < k → cs[k]? ≠ some c := by
  rw [build] at h
  cases hi : lastIndexFrom 0 cs c with
  | none => rw [hi] at h; dsimp only at h; split at h <;> cases h
  | some m =>
    obtain ⟨n, hm, hn, hlast⟩ := lastIndexFrom_eq_some hi
    rw [hi] at h
    cases h
    exact ⟨n, by rw [hm, Nat.zero_add], hn, hlast⟩

/-- Only `PAD`, and only outside the alphabet, has the entry `Padding` (R76). -/
theorem build_eq_padding {cs : List Byte} {pad c : Byte} (h : build cs pad c = .padding) : c = pad ∧ c ∉ cs := by
  rw [build] at h
  cases hi : lastIndexFrom 0 cs c with
  | some m => rw [hi] at h; cases h
  | none =>
    rw [hi] at h
    dsimp only at h
    split at h
    · next hc => exact ⟨hc, lastIndexFrom_eq_none.mp hi⟩
    · cases h

/-- With distinct characters every index is its character's last. -/
theorem build_of_nodup {cs : List Byte} {pad c : Byte} {i : Nat} (hnodup : cs.Nodup) (hi : cs[i]? = some c) :
    build cs pad c = .value (BitVec.ofNat 8 i) := by
  refine build_of_last hi fun k hk hc => ?_
  have hlt : i < cs.length := (List.getElem?_eq_some_iff.mp hi).1
  have hik : i = k := (List.getElem?_inj hlt hnodup).mp (hi.trans hc.symm)
  omega

/-- `PAD` outside the alphabet has the entry `Padding`. -/
theorem build_pad {cs : List Byte} {pad : Byte} (h : pad ∉ cs) : build cs pad pad = .padding := by
  rw [build_of_not_mem h, if_pos rfl]

/-- Settles O21: distinct characters have one index each; the other bytes are outside the alphabet. -/
theorem wellFormedAlphabetTable : Obligations.WellFormedAlphabetTable := by
  intro cs pad ⟨_, hnodup, hpad⟩
  refine ⟨fun i c hi => build_of_nodup hnodup hi, build_pad hpad, fun c hc hne => ?_⟩
  rw [build_of_not_mem hc, if_neg hne]

/-- Settles O23: a cell holds the value of the last index only, and `Padding` only outside the alphabet. -/
theorem malformedAlphabets : Obligations.MalformedAlphabets := by
  refine ⟨fun cs pad c j _ hj hlast => build_of_last hj hlast, fun cs pad c i j hlen hij hi hj d hd => ?_,
    fun cs pad hpad d hd => ?_⟩
  · obtain ⟨n, hv, hn, hlast⟩ := build_eq_value hd
    have hilt : i < cs.length := (List.getElem?_eq_some_iff.mp hi).1
    have hnlt : n < cs.length := (List.getElem?_eq_some_iff.mp hn).1
    have hin : i = n := by
      have := congrArg BitVec.toNat hv
      simp only [BitVec.toNat_ofNat] at this
      omega
    subst hin
    obtain rfl : d = c := Option.some.inj (hn.symm.trans hi)
    exact hlast j hij hj
  · obtain ⟨rfl, hnot⟩ := build_eq_padding hd
    exact hnot hpad

/-! ## The alphabet as a function (41_encoder.md R82, R88) -/

/-- With 64 characters every sextet has one. -/
theorem getElem?_alphaOf {p : Params} {a : Asel} (h : alen p a = 64) (x : Sextet) :
    (alphaOf p a)[x.toNat]? = some (alphabetFn p a x) := by
  have hx : x.toNat < (alphaOf p a).length := by have := x.isLt; simp only [alen] at h; omega
  rw [alphabetFn, List.getD_eq_getElem?_getD, List.getElem?_eq_getElem hx, Option.getD_some]

/-- A character that a substitution answers is the one `enc` takes. -/
theorem eq_alphabetFn_of_substChar {s : State} {x : Sextet} {c : Byte} (h : substChar s x = .next c) :
    c = alphabetFn s.params s.unit.asel x := by
  rw [alphabetFn, List.getD_eq_getElem?_getD, substChar_eq_next.mp h, Option.getD_some]

/-- The table of a well-formed alphabet gives a sextet back. -/
theorem tableFn_alphabetFn {p : Params} {a : Asel} (h : alphabetWellFormed (alphaOf p a) p.pad) (x : Sextet) :
    tableFn p a (alphabetFn p a x) = .value (x.setWidth 8) := by
  obtain ⟨hlen, hnodup, -⟩ := h
  rw [tableFn, build_of_nodup hnodup (getElem?_alphaOf hlen x), BitVec.ofNat_toNat]

theorem tableFn_pad {p : Params} {a : Asel} (h : alphabetWellFormed (alphaOf p a) p.pad) :
    tableFn p a p.pad = .padding := by
  obtain ⟨-, -, hpad⟩ := h
  exact build_pad hpad

theorem execSubst_of_substChar {s : State} {q : Pos} {x : Sextet} {c : Byte} (h : substChar s x = .next c) :
    execSubst q x s = .next (s.withUnit (s.unit.withQAt q c)) := by
  rw [execSubst, h, chain_next]

/-- Settles O27: the substitution answers the character there is; the table of a well-formed alphabet tells its
characters apart and tells `PAD` from them. -/
theorem substitutionReadsTheAlphabet : Obligations.SubstitutionReadsTheAlphabet := by
  refine ⟨fun s x c hc => ?_, fun p a hlen x => getElem?_alphaOf hlen x, fun p a hwf => ⟨fun x y hxy => ?_, fun x hx => ?_⟩⟩
  · have hsubst (q : Pos) := execSubst_of_substChar (q := q) (substChar_eq_next.mpr hc)
    exact ⟨hsubst .p0, hsubst .p1, hsubst .p2, hsubst .p3⟩
  · have hval : Entry.value (x.setWidth 8) = .value (y.setWidth 8) := by
      rw [← tableFn_alphabetFn hwf x, ← tableFn_alphabetFn hwf y, hxy]
    have hbyte : x.setWidth 8 = y.setWidth 8 := Entry.value.inj hval
    rw [← setWidth_six_eq_sextet hbyte, setWidth_six_eq_sextet rfl]
  · have hval := tableFn_alphabetFn hwf x
    rw [hx, tableFn_pad hwf] at hval
    cases hval

/-! ## The whole-buffer encoder (41_encoder.md R88) -/

/-- `enc` splits at a group boundary. -/
theorem enc_append (A : Sextet → Byte) (pad : Byte) (xs ys : List Byte) (h : xs.length % 3 = 0) :
    enc A pad (xs ++ ys) = enc A pad xs ++ enc A pad ys := by
  induction xs using enc.induct with
  | case1 => rfl
  | case2 b0 => simp at h
  | case3 b0 b1 => simp at h
  | case4 b0 b1 b2 rest ih => simp [enc, ih ((Nat.add_mod_right _ 3).symm.trans h)]

/-- With `PAD` no character of the alphabet, `PAD` stands in the last two positions only. -/
theorem length_enc_le_of_pad {A : Sextet → Byte} {pad : Byte} (hA : ∀ x, A x ≠ pad) (xs : List Byte) (k : Nat)
    (h : (enc A pad xs)[k]? = some pad) : (enc A pad xs).length ≤ k + 2 := by
  induction xs using enc.induct generalizing k with
  | case1 => cases h
  | case2 b0 =>
    match k, h with
    | 0, h | 1, h => exact absurd (Option.some.inj h) (hA _)
    | k + 2, _ => simp [enc]
  | case3 b0 b1 =>
    match k, h with
    | 0, h | 1, h | 2, h => exact absurd (Option.some.inj h) (hA _)
    | k + 3, _ => simp [enc]
  | case4 b0 b1 b2 rest ih =>
    match k, h with
    | 0, h | 1, h | 2, h | 3, h => exact absurd (Option.some.inj h) (hA _)
    | k + 4, h =>
      have hrest : (enc A pad rest).length ≤ k + 2 := ih k h
      simp only [enc, List.length_cons]
      omega

/-- Settles O31: by induction over the input, group by group. -/
theorem encodeOfConcatenation : Obligations.EncodeOfConcatenation :=
  ⟨enc_append, fun _ _ xs k hA => length_enc_le_of_pad hA xs k⟩

/-! ## Decoding what was encoded (42_decoder.md R107) -/

/-- With a table that gives every sextet back and knows `PAD`, the decoder appends the bytes that were encoded. -/
theorem decGo_enc {table : Byte → Entry} {A : Sextet → Byte} {pad : Byte} (policy : TrailPolicy)
    (hA : ∀ x, table (A x) = .value (x.setWidth 8)) (hpad : table pad = .padding) (input acc : List Byte) :
    decGo table policy (enc A pad input) acc = .ok (acc ++ input) := by
  have hsextet (x : Sextet) : (x.setWidth 8).setWidth 6 = x := setWidth_six_eq_sextet rfl
  induction input using enc.induct generalizing acc with
  | case1 => simp [enc, decGo]
  | case2 b0 =>
    rw [enc, decGo_of_value_value_padding_padding (.inr rfl) (hA _) (hA _) hpad hpad, hsextet, hsextet,
      sextet1Tail_eq, outByte0_sextets]
  | case3 b0 b1 =>
    rw [enc, decGo_of_value_value_value_padding (.inr rfl) (hA _) (hA _) (hA _) hpad, hsextet, hsextet, hsextet,
      sextet2Tail_eq, outByte0_sextets, outByte1_sextets]
  | case4 b0 b1 b2 rest ih =>
    rw [enc, decGo_of_full (by simp [hA]), ih]
    simp [hA, Entry.sextet, hsextet, outByte0_sextets, outByte1_sextets, outByte2_sextets]

/-- Both alphabets of this block are well formed (10_state.md R15 to R17). -/
theorem blockParams_wellFormed (a : Asel) : alphabetWellFormed (alphaOf blockParams a) blockParams.pad := by
  unfold alphabetWellFormed
  cases a <;> decide +kernel

/-- Settles O46: by induction over the input, with the table of a well-formed alphabet. -/
theorem roundTrip : Obligations.RoundTrip := by
  refine ⟨fun p a policy input hwf => ?_, blockParams_wellFormed⟩
  have hlen : (enc (alphabetFn p a) p.pad input).length % 4 = 0 := by
    rw [length_enc]; exact Nat.mul_mod_right 4 _
  rw [dec_of_length_mod_eq hlen, decGo_enc policy (tableFn_alphabetFn hwf) (tableFn_pad hwf), List.nil_append]

end Sys2Proof.Machine

namespace Sys2Proof.Machine

open Sys2Proof.Safety

/-! ## Acceptance, holding and refusal of a command (43_host_interface_and_variants.md R119) -/

/-- While a command runs, a presented command is held. -/
theorem encodeCommand_of_busy {s : State} (w : BitVec 4) (hb : s.unit.state = .busy) : encodeCommand w s = .next s :=
  if_pos hb

theorem decodeCommand_of_busy {s : State} (a : Asel) (w : BitVec 4) (hb : s.unit.state = .busy) :
    decodeCommand a w s = .next s :=
  if_pos hb

/-- A DECODE is held while its table is not valid. -/
theorem decodeCommand_of_not_valid {s : State} {a : Asel} (w : BitVec 4) (hl : s.lutValid a = false) :
    decodeCommand a w s = .next s := by
  simp [decodeCommand, hl]

section
variable {s : State} {a : Asel} (w : BitVec 4) (hb : s.unit.state ≠ .busy)
include hb

/-- A free unit accepts an ENCODE whose lengths fit. -/
theorem encodeCommand_of_fits (hin : fitsLen s.params s.unit.portInLen = true)
    (hout : fitsLen s.params (encodedLen s.unit.portInLen) = true) :
    encodeCommand w s = .next (s.withUnit (s.unit.acceptEncode w)) := by
  simp [encodeCommand, hb, hin, hout]

/-- An ENCODE whose lengths do not fit is refused (00_scope.md R8). -/
theorem encodeCommand_of_not_fits
    (h : (fitsLen s.params s.unit.portInLen && fitsLen s.params (encodedLen s.unit.portInLen)) = false) :
    encodeCommand w s = .refused .lengthTooWide := by
  simp [encodeCommand, hb, h]

/-- A decode through a table of another size than 64 is refused (00_scope.md R6). -/
theorem decodeCommand_of_alen_ne (hl : s.lutValid a = true) (ha : alen s.params a ≠ 64) :
    decodeCommand a w s = .refused .tableSizeNot64 := by
  simp [decodeCommand, hb, hl, ha]

/-- A free unit accepts a DECODE with a valid table of 64 characters whose lengths fit. -/
theorem decodeCommand_of_fits (hl : s.lutValid a = true) (ha : alen s.params a = 64)
    (hin : fitsLen s.params s.unit.portInLen = true)
    (hout : fitsLen s.params (decodedLenMax s.unit.portInLen) = true) :
    decodeCommand a w s = .next (s.withUnit (s.unit.acceptDecode w)) := by
  simp [decodeCommand, hb, hl, ha, hin, hout]

/-- A DECODE whose lengths do not fit is refused (00_scope.md R8). -/
theorem decodeCommand_of_not_fits (hl : s.lutValid a = true) (ha : alen s.params a = 64)
    (h : (fitsLen s.params s.unit.portInLen && fitsLen s.params (decodedLenMax s.unit.portInLen)) = false) :
    decodeCommand a w s = .refused .lengthTooWide := by
  simp [decodeCommand, hb, hl, ha, h]

end

/-- Settles O18: a command runs, its table is missing, its lengths do not fit or its alphabet has another size. -/
theorem commandsAreHeldOrRefused : Obligations.CommandsAreHeldOrRefused := by
  intro s a
  refine ⟨fun hb => ⟨?_, ?_, ?_, ?_⟩, fun hl => ?_, fun hb h => ?_, fun hb hl ha => ?_, fun hb hl ha h => ?_⟩
  · exact encodeCommand_of_busy _ hb
  · exact decodeCommand_of_busy _ _ hb
  · exact encodeCommand_of_busy _ hb
  · exact decodeCommand_of_busy _ _ hb
  · exact decodeCommand_of_not_valid _ hl
  · exact encodeCommand_of_not_fits _ hb h
  · exact decodeCommand_of_alen_ne _ hb hl ha
  · exact decodeCommand_of_not_fits _ hb hl ha h

theorem cmdWord_encode (a : Asel) : cmdWord 0#2 a 0#1 = if a = .general then 0b0000#4 else 0b0010#4 := by
  cases a <;> decide

theorem cmdWord_decode (a : Asel) : cmdWord 0#2 a 1#1 = if a = .general then 0b0001#4 else 0b0011#4 := by
  cases a <;> decide

/-- Settles O15: the acceptance of an ENCODE, under its own word or the wrapper's. -/
theorem encodeIsAccepted : Obligations.EncodeIsAccepted := by
  intro s a i hi hb hin hout
  have haccept : exec (.encode a) s = .next (s.withUnit (s.unit.acceptEncode (cmdWord 0#2 a 0#1))) :=
    encodeCommand_of_fits _ hb hin hout
  rw [cmdWord_encode] at haccept
  obtain rfl | ⟨rfl, rfl⟩ := hi
  · exact haccept
  · exact (exec_b64encode s).trans haccept

/-- Settles O16: the acceptance of a DECODE, under its own word or the wrapper's. -/
theorem decodeIsAccepted : Obligations.DecodeIsAccepted := by
  intro s a i hi hb hl ha hin hout
  have haccept : exec (.decode a) s = .next (s.withUnit (s.unit.acceptDecode (cmdWord 0#2 a 1#1))) :=
    decodeCommand_of_fits _ hb hl ha hin hout
  rw [cmdWord_decode] at haccept
  obtain rfl | ⟨rfl, rfl⟩ := hi
  · exact haccept
  · exact (exec_b64decode s).trans haccept

/-! ## The unit's step, case by case (43_host_interface_and_variants.md R119, R123) -/

/-- A one-bit field that is not 0 is 1. -/
theorem eq_one_of_ne_zero {b : BitVec 1} (h : b ≠ 0#1) : b = 1#1 := by revert b; decide

/-- A free unit runs the command on its port. -/
theorem unitTurn_of_presented {s : State} (hb : s.unit.state ≠ .busy) (hv : s.unit.cmdValid = true) :
    unitTurn s = exec (decodeCmd s.unit.portCmd) s := by
  simp [unitTurn, hb, hv]

/-- A free unit with nothing on its port does nothing. -/
theorem unitTurn_of_idle {s : State} (hb : s.unit.state ≠ .busy) (hv : s.unit.cmdValid = false) :
    unitTurn s = .next s := by
  simp [unitTurn, hb, hv]

theorem unitTurn_of_encode {s : State} (hb : s.unit.state = .busy) (hop : cmdOp s.unit.cmd = 0#1) :
    unitTurn s = encodeTurn s := by
  simp [unitTurn, hb, hop]

theorem unitTurn_of_decode {s : State} (hb : s.unit.state = .busy) (hop : cmdOp s.unit.cmd = 1#1) :
    unitTurn s = decodeTurn s := by
  simp [unitTurn, hb, hop]

/-- A running ENCODE with a full group left does `ENC.G3` and counts the group (41_encoder.md R77). -/
theorem unitTurn_of_rawGroup {s : State} (hb : s.unit.state = .busy) (hop : cmdOp s.unit.cmd = 0#1)
    (hg : s.unit.gi < s.unit.ng) :
    unitTurn s = chain (execEncG3 (s.withUnit (s.unit.withCnt 3#2))) fun t => .next (t.withUnit t.unit.nextGroup) := by
  rw [unitTurn_of_encode hb hop, encodeTurn, if_pos hg]
  rfl

/-- A running ENCODE with no full group left does the operation of `REM` and ends (41_encoder.md R77). -/
theorem unitTurn_of_tail {s : State} (hb : s.unit.state = .busy) (hop : cmdOp s.unit.cmd = 0#1)
    (hg : s.unit.ng ≤ s.unit.gi) :
    unitTurn s = chain (exec (decodeCnt s.unit.rem) (s.withUnit (s.unit.withCnt s.unit.rem)))
      fun t => .next (t.withUnit t.unit.finish) := by
  rw [unitTurn_of_encode hb hop, encodeTurn, if_neg (Nat.not_lt.mpr hg)]

/-- A running DECODE past its length check, with a group left, decodes the group (42_decoder.md R89). -/
theorem unitTurn_of_textGroup {s : State} (hb : s.unit.state = .busy) (hop : cmdOp s.unit.cmd = 1#1)
    (hp : s.unit.phase = .groups) (hg : s.unit.gi < s.unit.ng) : unitTurn s = textGroup s := by
  rw [unitTurn_of_decode hb hop, decodeTurn, hp]
  exact if_pos hg

/-- `DEC.END` does not follow when the command has ended or a group is left. -/
theorem endIfComplete_of_not_complete {s : State} (h : s.unit.state ≠ .busy ∨ s.unit.gi < s.unit.ng) :
    endIfComplete s = .next s :=
  if_neg fun ⟨hb, hg⟩ => h.elim (fun hn => hn hb) (Nat.not_lt.mpr hg)

/-- The default turn is the unit's when it can move. -/
theorem defaultTurn_of_canMove {s : State} (h : s.unit.canMove s = true) : defaultTurn s = unitTurn s := if_pos h

/-- A unit can move when a command runs, or one is presented that does not wait for its table. -/
theorem canMove_of_running_or_presented {s : State}
    (h : s.unit.state = .busy ∨ (s.unit.cmdValid = true ∧ ¬ (cmdBase s.unit.portCmd = 0#2 ∧
      cmdOp s.unit.portCmd = 1#1 ∧ s.lutValid (cmdAsel s.unit.portCmd) = false))) : s.unit.canMove s = true := by
  obtain hb | ⟨hv, hheld⟩ := h
  · simp [UnitState.canMove, hb]
  · have : heldForTable s s.unit = false := by
      rw [← Bool.not_eq_true]
      simpa [heldForTable, and_assoc] using hheld
    simp [UnitState.canMove, hv, this]

/-! ### The step of each event -/

section
variable {s : State} {es : List Event}

theorem step_of_builderTurn {a : Asel} (he : s.events = .builderTurn a :: es) :
    step s = builderTurn a (s.withEvents es) := by
  simp [step, agentTurn, he]

theorem step_of_unitTurn (he : s.events = .unitTurn :: es) : step s = unitTurn (s.withEvents es) := by
  simp [step, agentTurn, he]

theorem step_of_nextUnit (he : s.events = .nextUnit :: es) : step s = .next (s.withEvents es).rotate := by
  simp [step, agentTurn, he]

/-- The host presents when the port is free. -/
theorem step_of_present {w : BitVec 4} {bs : List Byte} (he : s.events = .present w bs :: es)
    (hv : s.unit.cmdValid = false) : step s = .next ((s.withEvents es).withUnit (s.unit.present w bs)) := by
  simp [step, agentTurn, he, hv]

theorem step_of_reset (he : s.events = .reset :: es) : step s = .next (applyReset (s.withEvents es)) := by
  simp [step, agentTurn, he]

end

/-- A step with no event to come, or with a host that waits for the port, is the default turn. -/
theorem step_of_default {s : State} (h : s.events = [] ∨
    (s.unit.cmdValid = true ∧ ∃ w buffer es, s.events = .present w buffer :: es)) : step s = defaultTurn s := by
  obtain he | ⟨hv, w, buffer, es, he⟩ := h
  · simp [step, agentTurn, he]
  · simp [step, agentTurn, he, hv]

/-- Settles O1: the schedule, then the unit's step by what it runs. -/
theorem stepRunsTheSelectedOperation : Obligations.StepRunsTheSelectedOperation := by
  intro s
  refine ⟨fun _ => step_of_unitTurn, fun hd hm => ?_, unitTurn_of_presented, unitTurn_of_idle, unitTurn_of_rawGroup,
    unitTurn_of_tail, unitTurn_of_lengthCheck, unitTurn_of_textGroup, endIfComplete_of_le,
    endIfComplete_of_not_complete⟩
  rw [step_of_default hd, defaultTurn_of_canMove (canMove_of_running_or_presented hm)]

/-! ## The command on the port and `cmd_ready` (43_host_interface_and_variants.md R118, R119) -/

/-- A reserved word is refused (R117). -/
theorem exec_decodeCmd_of_reserved {w : BitVec 4} (h : cmdBase w ≠ 0#2) (s : State) :
    ∃ r, exec (decodeCmd w) s = .refused r := by
  obtain ⟨h0, _⟩ | ⟨h0, _⟩ | ⟨_, hr⟩ := decodeCmd_cases w
  · exact absurd h0 h
  · exact absurd h0 h
  · exact hr s

/-- A word of base 00 runs the acceptance of its operation under that word. -/
theorem exec_decodeCmd_of_encode {w : BitVec 4} (hbase : cmdBase w = 0#2) (hop : cmdOp w = 0#1) (s : State) :
    exec (decodeCmd w) s = encodeCommand w s := by
  obtain ⟨_, _, hd, hw⟩ | ⟨_, h1, _⟩ | ⟨h0, _⟩ := decodeCmd_cases w
  · rw [hd]
    exact congrArg (encodeCommand · s) hw
  · exact absurd (hop.symm.trans h1) (by decide)
  · exact absurd hbase h0

theorem exec_decodeCmd_of_decode {w : BitVec 4} (hbase : cmdBase w = 0#2) (hop : cmdOp w = 1#1) (s : State) :
    exec (decodeCmd w) s = decodeCommand (cmdAsel w) w s := by
  obtain ⟨_, h0, _⟩ | ⟨_, _, hd, hw⟩ | ⟨h0, _⟩ := decodeCmd_cases w
  · exact absurd (h0.symm.trans hop) (by decide)
  · rw [hd]
    exact congrArg (decodeCommand (cmdAsel w) · s) hw
  · exact absurd hbase h0

/-- `cmd_ready` of a free unit with an ENCODE on its port: whether the lengths fit. -/
theorem cmdReady_of_encode {s : State} (hb : s.unit.state ≠ .busy) (hv : s.unit.cmdValid = true)
    (hbase : cmdBase s.unit.portCmd = 0#2) (hop : cmdOp s.unit.portCmd = 0#1) :
    cmdReady s s.unit =
      (fitsLen s.params s.unit.portInLen && fitsLen s.params (encodedLen s.unit.portInLen)) := by
  simp [cmdReady, heldForTable, portLengthsFit, hb, hv, hbase, hop]

/-- `cmd_ready` of a free unit with a DECODE on its port: whether its table is valid, the lengths fit and its alphabet
has 64 characters. -/
theorem cmdReady_of_decode {s : State} (hb : s.unit.state ≠ .busy) (hv : s.unit.cmdValid = true)
    (hbase : cmdBase s.unit.portCmd = 0#2) (hop : cmdOp s.unit.portCmd = 1#1) :
    cmdReady s s.unit = (s.lutValid (cmdAsel s.unit.portCmd) &&
      (fitsLen s.params s.unit.portInLen && (fitsLen s.params (decodedLenMax s.unit.portInLen) &&
        alen s.params (cmdAsel s.unit.portCmd) == 64))) := by
  simp [cmdReady, heldForTable, portLengthsFit, hb, hv, hbase, hop]

/-- Settles O14: the conditions in their order, each with the answer of the command and with `cmd_ready`. -/
theorem commandOnThePort : Obligations.CommandOnThePort := by
  intro s
  refine ⟨fun h => ?_, fun hb hv => ?_⟩
  · obtain hb | hv := h
    · simp [cmdReady, hb]
    · simp [cmdReady, hv]
  rw [unitTurn_of_presented hb hv]
  split
  · next hbase => exact ⟨exec_decodeCmd_of_reserved hbase s, by simp [cmdReady, hbase]⟩
  · next hbase =>
    have hbase : cmdBase s.unit.portCmd = 0#2 := Decidable.not_not.mp hbase
    split
    · next hop =>
      rw [exec_decodeCmd_of_encode hbase hop, cmdReady_of_encode hb hv hbase hop]
      split
      · next hfit =>
        exact ⟨by simp [hfit, encodedLen], _, encodeCommand_of_fits _ hb hfit.1 hfit.2,
          rfl, rfl, rfl, rfl, rfl, rfl, rfl, rfl, rfl⟩
      · next hfit =>
        have hfit : (fitsLen s.params s.unit.portInLen && fitsLen s.params (encodedLen s.unit.portInLen)) = false := by
          simpa [encodedLen] using hfit
        exact ⟨encodeCommand_of_not_fits _ hb hfit, hfit⟩
    · next hop =>
      have hop : cmdOp s.unit.portCmd = 1#1 := eq_one_of_ne_zero hop
      rw [exec_decodeCmd_of_decode hbase hop, cmdReady_of_decode hb hv hbase hop]
      split
      · next hl => exact ⟨decodeCommand_of_not_valid _ hl, by simp [hl]⟩
      · next hl =>
        have hl : s.lutValid (cmdAsel s.unit.portCmd) = true := by simpa using hl
        split
        · next ha => exact ⟨decodeCommand_of_alen_ne _ hb hl ha, by simp [ha]⟩
        · next ha =>
          have ha : alen s.params (cmdAsel s.unit.portCmd) = 64 := Decidable.not_not.mp ha
          split
          · next hfit =>
            exact ⟨by simp [hfit, hl, ha, decodedLenMax], _, decodeCommand_of_fits _ hb hl ha hfit.1 hfit.2,
              rfl, rfl, rfl, rfl, rfl, rfl, rfl, rfl, rfl⟩
          · next hfit =>
            have hfit : (fitsLen s.params s.unit.portInLen &&
                fitsLen s.params (decodedLenMax s.unit.portInLen)) = false := by
              simpa [decodedLenMax] using hfit
            exact ⟨decodeCommand_of_not_fits _ hb hl ha hfit, by rw [hl, ha]; simpa using hfit⟩

end Sys2Proof.Machine

namespace Sys2Proof.Machine

open Sys2Proof.Safety

/-! ## The tails of an ENCODE (41_encoder.md R79 to R81) -/

/-- `ENC.T1` completes when its byte is there and the alphabet has 64 characters. -/
theorem execEncT1_of_reads {s : State} {b0 : Byte} (halen : alen s.params s.unit.asel = 64)
    (h0 : readIn s.unit (3 * s.unit.ng) = .next b0) :
    execEncT1 s = .next (s.withUnit ((s.unit.withRaw1 b0).withQ
      (alphabetFn s.params s.unit.asel (sextet0 b0)) (alphabetFn s.params s.unit.asel (sextet1Tail b0))
      s.params.pad s.params.pad).emit) := by
  simp only [execEncT1, h0, chain_next, substChar_eq_alphabetFn halen]

/-- `ENC.T2` completes when its two bytes are there and the alphabet has 64 characters. -/
theorem execEncT2_of_reads {s : State} {b0 b1 : Byte} (halen : alen s.params s.unit.asel = 64)
    (h0 : readIn s.unit (3 * s.unit.ng) = .next b0) (h1 : readIn s.unit (3 * s.unit.ng + 1) = .next b1) :
    execEncT2 s = .next (s.withUnit ((s.unit.withRaw2 b0 b1).withQ
      (alphabetFn s.params s.unit.asel (sextet0 b0)) (alphabetFn s.params s.unit.asel (sextet1 b0 b1))
      (alphabetFn s.params s.unit.asel (sextet2Tail b1)) s.params.pad).emit) := by
  simp only [execEncT2, h0, h1, chain_next, substChar_eq_alphabetFn halen]

/-- Settles O25: the sextets as shifts and masks, the reads, and the frame of the one state each tail answers. -/
theorem tailsAreEncoded : Obligations.TailsAreEncoded := by
  intro s b0 halen hlt m0
  have h0 := readIn_eq_next.mpr ⟨hlt, m0⟩
  simp only [setWidth_six_eq_sextet (setWidth_sextet0 b0), setWidth_six_eq_sextet (setWidth_sextet1Tail b0)]
  refine ⟨⟨_, execEncT1_of_reads halen h0, appended_outAppend _ _, rfl⟩, fun b1 hlt1 m1 => ?_⟩
  have h1 := readIn_eq_next.mpr ⟨hlt1, m1⟩
  simp only [setWidth_six_eq_sextet (setWidth_sextet1 b0 b1), setWidth_six_eq_sextet (setWidth_sextet2Tail b1)]
  exact ⟨_, execEncT2_of_reads halen h0 h1, appended_outAppend _ _, rfl⟩

/-- Settles O26: the empty tail has no stage. -/
theorem noTailDoesNothing : Obligations.NoTailDoesNothing := ⟨rfl, fun _ => rfl⟩

/-! ## The stages of a DECODE (42_decoder.md R90, R93) -/

/-- `DEC.LEN` fails on a length that is no multiple of 4 (R90). -/
theorem execDecLen_of_mod_ne_zero {s : State} (h : s.unit.inLen % 4 ≠ 0) :
    execDecLen s = .next (raiseError .badFormat s) :=
  if_pos h

/-- Settles O33: the length alone decides, whatever the buffer. -/
theorem lengthCheck : Obligations.LengthCheck := fun _ _ =>
  ⟨fun hm => ⟨_, execDecLen_of_mod_ne_zero hm, rfl, rfl, rfl⟩, fun hm => execDecLen_of_mod_eq_zero hm⟩

/-- Settles O36: the word of the flags of the four entries. -/
theorem textGroupIsClassified : Obligations.TextGroupIsClassified := fun s =>
  ⟨gcwOf s.unit.e0 s.unit.e1 s.unit.e2 s.unit.e3, rfl, gcwOf_bits _ _ _ _⟩

/-! ## The bytes of a group and the end of the command (42_decoder.md R94 to R96, R101 to R103) -/

/-- At the last group, or under `IGNORE`, a padded group ends the command in `DONE` (R101, R102). -/
theorem terminate_of_last {s : State} (h : s.params.trail = .ignore ∨ s.unit.ng ≤ s.unit.gi + 1) :
    terminate s = s.withUnit s.unit.finish := by
  obtain ⟨hp, hlt, _⟩ | ⟨_, ht⟩ := terminate_cases s
  · simp [hp, Nat.not_le.mpr hlt] at h
  · exact ht

/-- Under `REJECT` a padded group with groups after it is an error (R102). -/
theorem terminate_of_trailing {s : State} (hp : s.params.trail = .reject) (hlt : s.unit.gi + 1 < s.unit.ng) :
    terminate s = raiseError .badPadding s := by
  obtain ⟨_, _, ht⟩ | ⟨h, _⟩ := terminate_cases s
  · exact ht
  · simp [hp, Nat.not_le.mpr hlt] at h

theorem trailCheck_of_last {s : State} (h : s.unit.ng ≤ s.unit.gi + 1) : trailCheck s = s.withUnit s.unit.finish :=
  if_neg (Nat.not_lt.mpr h)

theorem trailCheck_of_trailing {s : State} (h : s.unit.gi + 1 < s.unit.ng) :
    trailCheck s = raiseError .badPadding s :=
  if_pos h

theorem execDecTail2_of_last {s : State} (h : s.params.trail = .ignore ∨ s.unit.ng ≤ s.unit.gi + 1) :
    execDecTail2 s = .next (s.withUnit s.unit.decTail2.finish) :=
  congrArg Host.Outcome.next (terminate_of_last (s := s.withUnit s.unit.decTail2) h)

theorem execDecTail1_of_last {s : State} (h : s.params.trail = .ignore ∨ s.unit.ng ≤ s.unit.gi + 1) :
    execDecTail1 s = .next (s.withUnit s.unit.decTail1.finish) :=
  congrArg Host.Outcome.next (terminate_of_last (s := s.withUnit s.unit.decTail1) h)

theorem execDecTail2_of_trailing {s : State} (hp : s.params.trail = .reject) (hlt : s.unit.gi + 1 < s.unit.ng) :
    execDecTail2 s = .next (raiseError .badPadding (s.withUnit s.unit.decTail2)) :=
  congrArg Host.Outcome.next (terminate_of_trailing (s := s.withUnit s.unit.decTail2) hp hlt)

theorem execDecTail1_of_trailing {s : State} (hp : s.params.trail = .reject) (hlt : s.unit.gi + 1 < s.unit.ng) :
    execDecTail1 s = .next (raiseError .badPadding (s.withUnit s.unit.decTail1)) :=
  congrArg Host.Outcome.next (terminate_of_trailing (s := s.withUnit s.unit.decTail1) hp hlt)

/-- Settles O37: the three bytes as shifts, appended at `OUT_LEN`. -/
theorem fullTextGroupIsDecoded : Obligations.FullTextGroupIsDecoded := by
  intro s
  rw [← outByte0_eq_shifts, ← outByte1_eq_shifts, ← outByte2_eq_shifts]
  exact ⟨_, rfl, appended_outAppend _ _, rfl⟩

/-- Settles O38: the bytes as shifts, appended at `OUT_LEN`, and the end at a padded group. -/
theorem paddedGroupsAreDecoded : Obligations.PaddedGroupsAreDecoded := by
  intro s h
  rw [← outByte0_eq_shifts, ← outByte1_eq_shifts]
  exact ⟨⟨_, execDecTail2_of_last h, appended_outAppend _ _, rfl⟩,
    ⟨_, execDecTail1_of_last h, appended_outAppend _ _, rfl⟩⟩

/-- Settles O40: the error at a padded group, after the group's own bytes. -/
theorem trailingGroupsAreRejected : Obligations.TrailingGroupsAreRejected := by
  intro s i hi hp hlt
  rw [← outByte0_eq_shifts, ← outByte1_eq_shifts]
  obtain rfl | rfl | rfl | rfl := hi
  · exact ⟨_, execDecTail2_of_trailing hp hlt, rfl, rfl, rfl⟩
  · exact ⟨_, execDecTail1_of_trailing hp hlt, rfl, rfl, rfl⟩
  · exact ⟨_, congrArg Host.Outcome.next (terminate_of_trailing hp hlt), rfl, rfl, rfl⟩
  · exact ⟨_, congrArg Host.Outcome.next (trailCheck_of_trailing hlt), rfl, rfl, rfl⟩

/-- Settles O41: the three ends by their checks. -/
theorem endOfADecode : Obligations.EndOfADecode := fun _ =>
  ⟨rfl, fun h => congrArg Host.Outcome.next (terminate_of_last h),
    fun h => congrArg Host.Outcome.next (trailCheck_of_last h),
    fun h => ⟨_, congrArg Host.Outcome.next (trailCheck_of_trailing h), rfl, rfl⟩⟩

/-- A bad class raises the error of its kind (R97 to R100). -/
theorem exec_of_badClass {i : Instr} {e : DecodeError} (s : State)
    (h : (e = .badCharacter ∧ ((∃ r, i = .decBadcharP0 r) ∨ (∃ r, i = .decBadcharP1 r) ∨ (∃ r, i = .decBadcharP2 r) ∨
        ∃ r, i = .decBadcharP3 r)) ∨
      (e = .badPadding ∧ ((∃ r, i = .decBadpadP0 r) ∨ (∃ r, i = .decBadpadP1 r) ∨ i = .decBadpadP2))) :
    exec i s = .next (raiseError e s) := by
  obtain ⟨rfl, ⟨_, rfl⟩ | ⟨_, rfl⟩ | ⟨_, rfl⟩ | ⟨_, rfl⟩⟩ | ⟨rfl, ⟨_, rfl⟩ | ⟨_, rfl⟩ | rfl⟩ := h <;> rfl

/-- Settles O42: the one way an error is taken, and the acceptance that follows it. -/
theorem badGroupsRaise : Obligations.BadGroupsRaise := by
  intro s i e hi
  refine ⟨_, exec_of_badClass s hi, rfl, rfl, rfl, fun a hin hout => ?_⟩
  have hfree : (raiseError e s).unit.state ≠ .busy := by simp
  exact ⟨_, encodeCommand_of_fits (cmdWord 0#2 a 0#1) hfree hin hout, rfl, rfl⟩

/-! ## The unused bits of a tail (30_encoding.md R65) -/

/-- The end at a padded group depends on the policy, `GI`, `NG` and what the group appended: of two units that agree in
these, both fail with the same error or both keep what they appended. -/
theorem terminate_congr {s : State} {u v : UnitState} (hgi : v.gi = u.gi) (hng : v.ng = u.ng) (herr : v.err = u.err)
    (hbuf : v.outBuf = u.outBuf) (hlen : v.outLen = u.outLen) :
    let t := terminate (s.withUnit u)
    let t' := terminate (s.withUnit v)
    t'.unit.state = t.unit.state ∧ t'.unit.err = t.unit.err ∧
      (t.unit.state = .done → t'.unit.outBuf = t.unit.outBuf ∧ t'.unit.outLen = t.unit.outLen) := by
  intro t t'
  obtain ⟨hp, hlt, ht⟩ | ⟨hend, ht⟩ := terminate_cases (s.withUnit u)
  · have ht' : t' = raiseError .badPadding (s.withUnit v) :=
      terminate_of_trailing hp (by simpa [hgi, hng] using hlt)
    simp [t, ht, ht']
  · have ht' : t' = s.withUnit v.finish := terminate_of_last (by simpa [hgi, hng] using hend)
    simp [t, ht, ht', herr, hbuf, hlen]

/-- Settles O39: the bytes read only the bits that the hypotheses fix. -/
theorem unusedTailBitsAreIgnored : Obligations.UnusedTailBitsAreIgnored := by
  intro s t t' w1 w2 w3
  refine ⟨fun hw ht ht' => ?_, fun hw ht ht' => ?_⟩
  · cases ht
    cases ht'
    have hbyte : outByte0 s.unit.v0 w1 = outByte0 s.unit.v0 s.unit.v1 := by rw [outByte0, outByte0, hw]
    exact terminate_congr rfl rfl rfl (by simp [hbyte]) rfl
  · cases ht
    cases ht'
    have hbyte : outByte1 s.unit.v1 w2 = outByte1 s.unit.v1 s.unit.v2 := by rw [outByte1, outByte1, hw]
    exact terminate_congr rfl rfl rfl (by simp [hbyte]) rfl

end Sys2Proof.Machine

namespace Sys2Proof.Machine

open Sys2Proof.Safety

/-! ## What an operation leaves alone (60_exceptions.md R137, R139) -/

@[simp] theorem withQAt_kept (u : UnitState) (q : Pos) (c : Byte) :
    (u.withQAt q c).state = u.state ∧ (u.withQAt q c).err = u.err ∧ (u.withQAt q c).cmdValid = u.cmdValid ∧
    (u.withQAt q c).portCmd = u.portCmd ∧ (u.withQAt q c).portInLen = u.portInLen ∧
    (u.withQAt q c).portIn = u.portIn := by
  cases q <;> exact ⟨rfl, rfl, rfl, rfl, rfl, rfl⟩

/-- The state differs in the unit in focus only, and there nothing was put on the port. -/
structure ActsOnUnit (s t : State) : Prop where
  others : t.others = s.others
  params : t.params = s.params
  events : t.events = s.events
  tables : t.lut0 = s.lut0 ∧ t.lut1 = s.lut1 ∧ t.lutValid0 = s.lutValid0 ∧ t.lutValid1 = s.lutValid1
  port : t.unit.portCmd = s.unit.portCmd ∧ t.unit.portInLen = s.unit.portInLen ∧ t.unit.portIn = s.unit.portIn
  cmdValid : t.unit.cmdValid = true → s.unit.cmdValid = true

namespace ActsOnUnit

theorem refl (s : State) : ActsOnUnit s s := ⟨rfl, rfl, rfl, ⟨rfl, rfl, rfl, rfl⟩, ⟨rfl, rfl, rfl⟩, id⟩

theorem withUnit {s : State} {u : UnitState}
    (hport : u.portCmd = s.unit.portCmd ∧ u.portInLen = s.unit.portInLen ∧ u.portIn = s.unit.portIn)
    (hv : u.cmdValid = true → s.unit.cmdValid = true) : ActsOnUnit s (s.withUnit u) :=
  ⟨rfl, rfl, rfl, ⟨rfl, rfl, rfl, rfl⟩, hport, hv⟩

theorem raiseError {s t : State} (h : ActsOnUnit s t) (e : DecodeError) : ActsOnUnit s (raiseError e t) :=
  ⟨h.others, h.params, h.events, h.tables, h.port, h.cmdValid⟩

theorem finish {s t : State} (h : ActsOnUnit s t) : ActsOnUnit s (t.withUnit t.unit.finish) :=
  ⟨h.others, h.params, h.events, h.tables, h.port, h.cmdValid⟩

theorem trailCheck {s t : State} (h : ActsOnUnit s t) : ActsOnUnit s (trailCheck t) := by
  obtain ⟨_, ht⟩ | ⟨_, ht⟩ := trailCheck_cases t
  · rw [ht]; exact h.raiseError _
  · rw [ht]; exact h.finish

theorem terminate {s t : State} (h : ActsOnUnit s t) : ActsOnUnit s (terminate t) := by
  obtain ⟨_, _, ht⟩ | ⟨_, ht⟩ := terminate_cases t
  · rw [ht]; exact h.raiseError _
  · rw [ht]; exact h.finish

theorem encodeCommand {w : BitVec 4} {s t : State} (h : encodeCommand w s = .next t) : ActsOnUnit s t := by
  obtain ⟨_, rfl⟩ | ⟨_, _, _, rfl⟩ := encodeCommand_eq_next h
  · exact refl _
  · exact withUnit (by simp) (by simp)

theorem decodeCommand {a : Asel} {w : BitVec 4} {s t : State} (h : decodeCommand a w s = .next t) :
    ActsOnUnit s t := by
  obtain ⟨_, rfl⟩ | ⟨_, _, _, _, _, rfl⟩ := decodeCommand_eq_next h
  · exact refl _
  · exact withUnit (by simp) (by simp)

end ActsOnUnit

/-- Every operation but BUILD acts on the unit in focus only. -/
theorem exec_actsOnUnit {i : Instr} {s t : State} (h : exec i s = .next t) (hi : ∀ a, i ≠ .build a) :
    ActsOnUnit s t := by
  cases i with
  | encode a => exact .encodeCommand h
  | b64encode => exact .encodeCommand h
  | decode a => exact .decodeCommand h
  | b64decode => exact .decodeCommand h
  | reservedBase16 | reservedBase32 | reservedBase3 => cases h
  | build a => exact absurd rfl (hi a)
  | encG3 =>
    obtain ⟨b0, b1, b2, c0, c1, c2, c3, -, -, -, -, -, -, -, rfl⟩ := execEncG3_eq_next h
    exact .withUnit (by simp) (by simp)
  | encT1 =>
    obtain ⟨b0, c0, c1, -, -, -, rfl⟩ := execEncT1_eq_next h
    exact .withUnit (by simp) (by simp)
  | encT2 =>
    obtain ⟨b0, b1, c0, c1, c2, -, -, -, -, -, rfl⟩ := execEncT2_eq_next h
    exact .withUnit (by simp) (by simp)
  | encT0 => cases h; exact .refl s
  | subst q x =>
    obtain ⟨c, -, rfl⟩ := execSubst_eq_next h
    exact .withUnit (by simp) (by simp)
  | decBadcharP0 | decBadcharP1 | decBadcharP2 | decBadcharP3 | decBadpadP0 | decBadpadP1 | decBadpadP2 =>
    cases h; exact (ActsOnUnit.refl s).raiseError _
  | decFull => cases h; exact .withUnit (by simp) (by simp)
  | decTail2 =>
    cases h
    exact (ActsOnUnit.withUnit (u := s.unit.decTail2) (by simp) (by simp)).terminate
  | decTail1 =>
    cases h
    exact (ActsOnUnit.withUnit (u := s.unit.decTail1) (by simp) (by simp)).terminate
  | decLen =>
    obtain ⟨_, he⟩ | ⟨_, he⟩ := execDecLen_cases s
    · cases he.symm.trans h; exact (ActsOnUnit.refl s).raiseError _
    · cases he.symm.trans h; exact .withUnit (by simp) (by simp)
  | decFetch =>
    obtain ⟨c0, c1, c2, c3, -, -, -, -, rfl⟩ := execDecFetch_eq_next h
    exact .withUnit (by simp) (by simp)
  | decLookup =>
    obtain ⟨e0, e1, e2, e3, -, -, -, -, rfl⟩ := execDecLookup_eq_next h
    exact .withUnit (by simp) (by simp)
  | decClassify => cases h; exact .withUnit (by simp) (by simp)
  | decTerm => cases h; exact (ActsOnUnit.refl s).terminate
  | decTrail => cases h; exact (ActsOnUnit.refl s).trailCheck
  | decEnd => cases h; exact (ActsOnUnit.refl s).finish

/-- Settles O49: BUILD writes a table and nothing of a unit; every other operation acts on the unit in focus. -/
theorem operationsActOnOneUnit : Obligations.OperationsActOnOneUnit := by
  intro i s t h
  by_cases hi : ∃ a, i = .build a
  · obtain ⟨a, rfl⟩ := hi
    obtain ⟨_, rfl⟩ := execBuild_eq_next.1 h
    simp
  · obtain ⟨ho, hp, he, ht, ⟨hc, hl, hb⟩, hv⟩ := exec_actsOnUnit h (not_exists.mp hi)
    exact ⟨ho, hp, he, hc, hl, hb, hv, fun _ => ht⟩

/-- A group operation of the encoder, a substitution or BUILD leaves `ERR` and `STATE` alone. -/
theorem exec_keeps_status {i : Instr} {s t : State}
    (hi : i = .encG3 ∨ i = .encT1 ∨ i = .encT2 ∨ i = .encT0 ∨ (∃ q x, i = .subst q x) ∨ (∃ a, i = .build a))
    (h : exec i s = .next t) : t.unit.err = s.unit.err ∧ t.unit.state = s.unit.state := by
  obtain rfl | rfl | rfl | rfl | ⟨q, x, rfl⟩ | ⟨a, rfl⟩ := hi
  · obtain ⟨b0, b1, b2, c0, c1, c2, c3, -, -, -, -, -, -, -, rfl⟩ := execEncG3_eq_next h
    simp
  · obtain ⟨b0, c0, c1, -, -, -, rfl⟩ := execEncT1_eq_next h
    simp
  · obtain ⟨b0, b1, c0, c1, c2, -, -, -, -, -, rfl⟩ := execEncT2_eq_next h
    simp
  · cases h; exact ⟨rfl, rfl⟩
  · obtain ⟨c, -, rfl⟩ := execSubst_eq_next h
    simp
  · obtain ⟨_, rfl⟩ := execBuild_eq_next.1 h
    simp

/-- A presented ENCODE is held, or its acceptance clears `ERR`. -/
theorem encodeCommand_status {w : BitVec 4} {s t : State} (h : encodeCommand w s = .next t) :
    t = s ∨ (t.unit.err = none ∧ t.unit.state = .busy) := by
  obtain ⟨_, rfl⟩ | ⟨_, _, _, rfl⟩ := encodeCommand_eq_next h
  · exact .inl rfl
  · exact .inr ⟨rfl, rfl⟩

/-- What a step of a running ENCODE does to `STATE`, `CNT` and `ERR` (41_encoder.md R77): a full group leaves it
running, the tail ends it. -/
theorem UnitStep.encode_status {s t : State} (h : UnitStep s t) (hb : s.unit.state = .busy)
    (hop : cmdOp s.unit.cmd = 0#1) : t.unit.err = s.unit.err ∧
      ((s.unit.gi < s.unit.ng ∧ t.unit.state = .busy ∧ t.unit.cnt = 3#2) ∨
        (s.unit.ng ≤ s.unit.gi ∧ t.unit.state = .done ∧ t.unit.cnt = s.unit.rem)) := by
  cases h with
  | rawGroup _ _ hg => exact ⟨rfl, .inl ⟨hg, hb, rfl⟩⟩
  | tail0 _ _ hg | tail1 _ _ hg | tail2 _ _ hg | tail3 _ _ hg => exact ⟨rfl, .inr ⟨hg, rfl, rfl⟩⟩
  | stay hn | acceptEncode hn | acceptDecode hn => exact absurd hb hn
  | badLength _ hop' | goodLength _ hop' | emptyInput _ hop' | textGroup _ hop' | noGroup _ hop' =>
    exact absurd (hop.symm.trans hop') (by decide)

/-- Settles O28: operation by operation, by the acceptance, and by what a step of a running ENCODE does. -/
theorem encoderAndBuildRaiseNothing : Obligations.EncoderAndBuildRaiseNothing := by
  refine ⟨fun s t i hi h => exec_keeps_status hi h, fun s t i hi h => ?_, fun s t hb hop h => ?_⟩
  · obtain ⟨a, rfl⟩ | rfl := hi
    · exact encodeCommand_status h
    · exact encodeCommand_status h
  · obtain ⟨herr, ⟨_, hs, _⟩ | ⟨_, hs, _⟩⟩ := (unitTurn_eq_next h).encode_status hb hop
    · exact ⟨herr, .inl hs⟩
    · exact ⟨herr, .inr hs⟩

/-- Settles O4: the count map, and `CNT` after a group and after the tail. -/
theorem countSelectsGroupOperation : Obligations.CountSelectsGroupOperation := by
  refine ⟨rfl, rfl, rfl, rfl, fun s t hb hop _ h => ?_⟩
  obtain ⟨_, ⟨hg, _, hc⟩ | ⟨hg, _, hc⟩⟩ := (unitTurn_eq_next h).encode_status hb hop
  · rw [if_pos hg, hc]
  · rw [if_neg (Nat.not_lt.mpr hg), hc]

end Sys2Proof.Machine

namespace Sys2Proof.Machine

open Sys2Proof.Safety

/-! ## Reset (70_reset_and_hazards.md R142, R153) -/

/-- Reset treats the unit in focus as it treats every other. -/
theorem unitsOf_applyReset (s : State) : unitsOf (applyReset s) = resetOthers s.freeCtr (unitsOf s) := rfl

theorem getElem?_resetOthers (n : Nat) (us : List UnitState) (k : Nat) :
    (resetOthers n us)[k]? = us[k]?.map fun u => u.onReset (Config.freeOut (n + k)) := by
  induction us generalizing n k with
  | nil => rfl
  | cons u us ih =>
    cases k with
    | zero => rfl
    | succ k => simp only [resetOthers, List.getElem?_cons_succ, ih, Nat.add_right_comm, Nat.add_assoc]

/-- Reset keeps of every unit what `onReset` keeps. -/
theorem map_resetOthers {β : Type} {f : UnitState → β} (hf : ∀ u bs, f (u.onReset bs) = f u) (n : Nat)
    (us : List UnitState) : (resetOthers n us).map f = us.map f := by
  induction us generalizing n with
  | nil => rfl
  | cons u us ih => simp only [resetOthers, List.map_cons, hf, ih]

theorem length_resetOthers (n : Nat) (us : List UnitState) : (resetOthers n us).length = us.length := by
  simpa using congrArg List.length (map_resetOthers (f := fun _ => ()) (fun _ _ => rfl) n us)

/-- Reset leaves `OUT` of a unit that runs no command. -/
theorem onReset_outBuf_of_not_busy {u : UnitState} (h : u.state ≠ .busy) (bs : List Byte) :
    (u.onReset bs).outBuf = u.outBuf :=
  if_neg h

/-- Settles O13: the one state reset answers, its units one by one. -/
theorem resetTakesEffectInOneStep : Obligations.ResetTakesEffectInOneStep := by
  intro s es he
  have hunits : unitsOf (applyReset (s.withEvents es)) = resetOthers s.freeCtr (unitsOf s) := unitsOf_applyReset _
  refine ⟨applyReset (s.withEvents es), step_of_reset he, rfl, rfl, rfl, rfl, rfl, rfl, ?_, ?_, ?_, ?_⟩
  · rw [hunits, length_resetOthers]
  · intro u hu
    rw [hunits] at hu
    obtain ⟨v, -, bs, rfl⟩ := mem_resetOthers hu
    exact ⟨rfl, rfl, rfl⟩
  · rw [hunits, map_resetOthers fun _ _ => rfl]
  · intro k u v hu hv hb
    rw [hunits, getElem?_resetOthers, hu] at hv
    cases hv
    exact onReset_outBuf_of_not_busy hb _

/-! ## What a step does to the parameters and the tables (00_scope.md R5, 20_memory.md R36, R48) -/

/-- A change of focus changes nothing but which unit is in focus. -/
@[simp] theorem rotate_kept (s : State) :
    s.rotate.params = s.params ∧ s.rotate.events = s.events ∧
    s.rotate.lut0 = s.lut0 ∧ s.rotate.lut1 = s.lut1 ∧ s.rotate.lutValid0 = s.lutValid0 ∧
    s.rotate.lutValid1 = s.lutValid1 := by
  unfold State.rotate
  split <;> exact ⟨rfl, rfl, rfl, rfl, rfl, rfl⟩

/-- The tables of states with the same four fields. -/
theorem lut_congr {s t : State} (h0 : t.lut0 = s.lut0) (h1 : t.lut1 = s.lut1) (hv0 : t.lutValid0 = s.lutValid0)
    (hv1 : t.lutValid1 = s.lutValid1) (a : Asel) : t.lut a = s.lut a ∧ t.lutValid a = s.lutValid a := by
  cases a
  · exact ⟨h0, hv0⟩
  · exact ⟨h1, hv1⟩

theorem UnitStep.params_eq {s t : State} (h : UnitStep s t) : t.params = s.params := by
  obtain ⟨-, hp, -⟩ := h.frame
  exact hp

theorem MachineStep.params_eq {s t : State} (h : MachineStep s t) : t.params = s.params := by
  cases h with
  | unit es h => exact h.params_eq
  | build | rotate | present | reset | nothing => simp

/-- What a step can do to a table: keep it, build it while it is not valid, or, as a reset, clear it. -/
theorem MachineStep.table_cases {s t : State} (h : MachineStep s t) (a : Asel) :
    (t.lut a = s.lut a ∧ t.lutValid a = s.lutValid a) ∨
    (s.lutValid a = false ∧ t.lut a = buildTable (alphaOf s.params a) s.params.pad ∧ t.lutValid a = true) ∨
    ((∃ es, s.events = .reset :: es) ∧ t.lut a = [] ∧ t.lutValid a = false) := by
  cases h with
  | unit es h =>
    obtain ⟨-, -, -, h0, h1, hv0, hv1⟩ := h.frame
    exact .inl (lut_congr h0 h1 hv0 hv1 a)
  | build es b hv hn =>
    by_cases hab : a = b
    · subst hab
      exact .inr (.inl ⟨hv, by simp⟩)
    · refine .inl ?_
      rw [(withTable_lut_other _ _ hab).1, (withTable_lut_other _ _ hab).2]
      exact lut_withEvents s es a
  | rotate es =>
    obtain ⟨-, -, h0, h1, hv0, hv1⟩ := rotate_kept (s.withEvents es)
    exact .inl (lut_congr h0 h1 hv0 hv1 a)
  | present es w bs hv => exact .inl (lut_congr rfl rfl rfl rfl a)
  | reset es he => exact .inr (.inr ⟨⟨es, he⟩, lut_applyReset _ a⟩)
  | nothing es => exact .inl (lut_withEvents s es a)

/-- Settles O47: a step that is no reset keeps a table or builds one that is not valid. -/
theorem validTablesStay : Obligations.ValidTablesStay := by
  intro s t a h hreset
  obtain ⟨hlut, hvalid⟩ | ⟨hfalse, hlut, hvalid⟩ | ⟨⟨es, he⟩, _⟩ := (step_eq_next h).table_cases a
  · refine ⟨fun hv => ⟨hlut, hvalid.trans hv⟩, fun hf ht => ?_⟩
    rw [hvalid, hf] at ht
    cases ht
  · refine ⟨fun hv => ?_, fun _ _ => hlut⟩
    rw [hfalse] at hv
    cases hv
  · exact absurd he (hreset es)

/-- Settles O48: no move writes the parameters. -/
theorem stepKeepsTheParameters : Obligations.StepKeepsTheParameters := fun _ _ h => (step_eq_next h).params_eq

/-! ## The canonical form of the memories (20_memory.md R33) -/

theorem unitMemoriesWf_iff {u : UnitState} :
    unitMemoriesWf u = true ↔ Memory.wf u.inBuf ∧ Memory.wf u.outBuf ∧ Memory.wf u.portIn := by
  simp [unitMemoriesWf, and_assoc]

theorem memoriesWf_iff {s : State} :
    memoriesWf s = true ↔ (∀ a, Memory.wf (s.lut a)) ∧ ∀ u ∈ unitsOf s, unitMemoriesWf u = true := by
  have htables : (∀ a, Memory.wf (s.lut a)) ↔ Memory.wf s.lut0 ∧ Memory.wf s.lut1 :=
    ⟨fun h => ⟨h .general, h .urlSafe⟩, fun h a => match a with | .general => h.1 | .urlSafe => h.2⟩
  simp [memoriesWf, htables]

/-- A text group writes `OUT` only, by appending or with a free value. -/
theorem GroupResult.memoriesWf {s t : State} (h : GroupResult s t) (hs : unitMemoriesWf s.unit = true) :
    unitMemoriesWf t.unit = true := by
  rw [unitMemoriesWf_iff] at hs ⊢
  obtain ⟨hin, hout, hport⟩ := hs
  cases h <;> simp [hin, hout, hport]

/-- A step of a unit takes `IN` from the port, and writes `OUT` by appending, empty or with a free value. -/
theorem UnitStep.memoriesWf {s t : State} (h : UnitStep s t) (hs : unitMemoriesWf s.unit = true) :
    unitMemoriesWf t.unit = true := by
  cases h with
  | textGroup _ _ _ _ _ _ _ _ _ _ _ _ hr => exact hr.memoriesWf hs
  | _ =>
    rw [unitMemoriesWf_iff] at hs ⊢
    obtain ⟨hin, hout, hport⟩ := hs
    simp [hin, hout, hport, show Memory.wf ([] : Memory Byte) from rfl]

theorem onReset_memoriesWf {u : UnitState} (bs : List Byte) (hu : unitMemoriesWf u = true) :
    unitMemoriesWf (u.onReset bs) = true := by
  rw [unitMemoriesWf_iff] at hu ⊢
  obtain ⟨hin, hout, hport⟩ := hu
  refine ⟨hin, ?_, hport⟩
  change Memory.wf (resetOut u bs)
  unfold resetOut
  split
  · exact wf_ofList bs
  · exact hout

theorem present_memoriesWf {u : UnitState} (w : BitVec 4) (bs : List Byte) (hu : unitMemoriesWf u = true) :
    unitMemoriesWf (u.present w bs) = true := by
  rw [unitMemoriesWf_iff] at hu ⊢
  obtain ⟨hin, hout, -⟩ := hu
  exact ⟨hin, hout, wf_ofList bs⟩

/-- Settles O50: a table is kept, built or emptied; the buffers by the induction over the units. -/
theorem memoryStaysCanonical : Obligations.MemoryStaysCanonical := by
  intro s t hs h
  obtain ⟨htables, hunits⟩ := memoriesWf_iff.mp hs
  refine memoriesWf_iff.mpr ⟨fun a => ?_, ?_⟩
  · obtain ⟨hlut, _⟩ | ⟨_, hlut, _⟩ | ⟨_, hlut, _⟩ := (step_eq_next h).table_cases a
    · rw [hlut]; exact htables a
    · rw [hlut]; exact wf_buildTable _ _
    · rw [hlut]; rfl
  · exact forall_units_step hunits h (fun s t hu hstep => hstep.memoriesWf hu) (fun u w bs => present_memoriesWf w bs)
      fun u bs => onReset_memoriesWf bs

/-! ## `ERR` and `STATE` (10_state.md R27) -/

theorem statusOk_of_no_error {u : UnitState} (hs : u.state ≠ .fail) (he : u.err = none) : statusOk u :=
  ⟨fun h => absurd h hs, fun h => absurd he h⟩

theorem err_eq_none_of_statusOk {u : UnitState} (h : statusOk u) (hs : u.state ≠ .fail) : u.err = none :=
  Decidable.not_not.mp fun he => hs (h.mpr he)

theorem statusOk_raiseError (e : DecodeError) (s : State) : statusOk (raiseError e s).unit := by simp [statusOk]

/-- A text group raises its error, or keeps `ERR` and ends or goes on. -/
theorem GroupResult.statusOk {s t : State} (h : GroupResult s t) (hb : s.unit.state = .busy) (he : s.unit.err = none) :
    statusOk t.unit := by
  cases h with
  | badCharacter | badPadding | trailing2 | trailing1 => exact statusOk_raiseError _ _
  | full => exact statusOk_of_no_error (by simp [hb]) he
  | fullLast | tail2 | tail1 => exact statusOk_of_no_error (by simp) he

/-- An acceptance clears `ERR`; a running command has none and keeps it so, unless it raises one. -/
theorem UnitStep.statusOk {s t : State} (h : UnitStep s t) (hs : statusOk s.unit) : statusOk t.unit := by
  have herr (hb : s.unit.state = .busy) : s.unit.err = none := err_eq_none_of_statusOk hs (by simp [hb])
  cases h with
  | stay => exact hs
  | acceptEncode | acceptDecode => exact statusOk_of_no_error (by simp) rfl
  | rawGroup hb | goodLength hb => exact statusOk_of_no_error (by simp [hb]) (herr hb)
  | tail0 hb | tail1 hb | tail2 hb | tail3 hb | emptyInput hb | noGroup hb =>
    exact statusOk_of_no_error (by simp) (herr hb)
  | badLength => exact statusOk_raiseError _ _
  | textGroup hb _ _ _ _ _ _ _ _ _ _ _ hr => exact hr.statusOk hb (herr hb)

/-- Settles O51: by the induction over the units. -/
theorem statusStaysConsistent : Obligations.StatusStaysConsistent := fun _ _ hs h =>
  forall_units_step hs h (fun _ _ hu hstep => hstep.statusOk hu) (fun _ _ _ hu => hu)
    fun _ _ _ => statusOk_of_no_error (by simp) rfl

end Sys2Proof.Machine

namespace Sys2Proof.Machine

open Sys2Proof.Safety

/-! ## The sequencer (10_state.md R25, 41_encoder.md R84, 42_decoder.md R106) -/

section
variable {u : UnitState}

theorem sequencerOk_of_idle (h : u.state = .idle) : sequencerOk u := by simp [sequencerOk, h]

theorem sequencerOk_of_fail (h : u.state = .fail) (hop : cmdOp u.cmd = 1#1) : sequencerOk u := by
  simp [sequencerOk, h, hop]

theorem sequencerOk_of_encode_busy (h : u.state = .busy) (hbase : cmdBase u.cmd = 0#2) (hop : cmdOp u.cmd = 0#1)
    (hc : encodeCounters u) : sequencerOk u := by
  simp [sequencerOk, h, hbase, hop, hc]

theorem sequencerOk_of_decode_busy (h : u.state = .busy) (hbase : cmdBase u.cmd = 0#2) (hop : cmdOp u.cmd = 1#1)
    (hc : decodeCounters u) : sequencerOk u := by
  simp [sequencerOk, h, hbase, hop, hc]

theorem sequencerOk_of_encode_done (h : u.state = .done) (hop : cmdOp u.cmd = 0#1)
    (hl : u.outLen = encodedLen u.inLen) : sequencerOk u := by
  simp [sequencerOk, h, hop, hl, encodedLen]

theorem sequencerOk_of_decode_done (h : u.state = .done) (hop : cmdOp u.cmd = 1#1)
    (hl : u.outLen ≤ decodedLenMax u.inLen) : sequencerOk u := by
  simpa [sequencerOk, h, hop, decodedLenMax] using hl

theorem decodeCounters_of_groups (hp : u.phase = .groups) :
    decodeCounters u ↔ u.inLen % 4 = 0 ∧ u.ng = u.inLen / 4 ∧ u.gi < u.ng ∧ u.outLen = 3 * u.gi := by
  rw [decodeCounters, hp]

theorem decodeCounters_of_lengthCheck (hp : u.phase = .lengthCheck) :
    decodeCounters u ↔ u.gi = 0 ∧ u.outLen = 0 := by
  rw [decodeCounters, hp]

end

/-- Acceptance of an ENCODE sets its counters (41_encoder.md R77). -/
theorem sequencerOk_acceptEncode (u : UnitState) {w : BitVec 4} (hbase : cmdBase w = 0#2) (hop : cmdOp w = 0#1) :
    sequencerOk (u.acceptEncode w) := by
  refine sequencerOk_of_encode_busy rfl hbase hop ⟨rfl, ?_, Nat.zero_le _, rfl⟩
  have : u.portInLen % 3 < 2 ^ 2 := by omega
  simpa using Nat.mod_eq_of_lt this

/-- Acceptance of a DECODE owes the length check with nothing done (42_decoder.md R89). -/
theorem sequencerOk_acceptDecode (u : UnitState) {w : BitVec 4} (hbase : cmdBase w = 0#2) (hop : cmdOp w = 1#1) :
    sequencerOk (u.acceptDecode w) :=
  sequencerOk_of_decode_busy rfl hbase hop ((decodeCounters_of_lengthCheck rfl).mpr ⟨rfl, rfl⟩)

/-- Three bytes a group: what a group can append to those before it stays within the bound of a finished DECODE. -/
theorem outLen_le_decodedLenMax {gi ng inLen n : Nat} (hm : inLen % 4 = 0) (hng : ng = inLen / 4) (hg : gi < ng)
    (hn : n ≤ 3) : 3 * gi + n ≤ decodedLenMax inLen := by
  unfold decodedLenMax
  omega

/-- A text group counts itself and its three bytes, or ends the command within the bound. -/
theorem GroupResult.sequencerOk {s t : State} (h : GroupResult s t) (hb : s.unit.state = .busy)
    (hp : s.unit.phase = .groups) (hbase : cmdBase s.unit.cmd = 0#2) (hop : cmdOp s.unit.cmd = 1#1)
    (hc : decodeCounters s.unit) : sequencerOk t.unit := by
  obtain ⟨hm, hng, hg, hout⟩ := (decodeCounters_of_groups hp).mp hc
  have hbound {n : Nat} (hn : n ≤ 3) : s.unit.outLen + n ≤ decodedLenMax s.unit.inLen :=
    hout ▸ outLen_le_decodedLenMax hm hng hg hn
  cases h with
  | badCharacter | badPadding | trailing2 | trailing1 => exact sequencerOk_of_fail (by simp) (by simpa using hop)
  | full _ hlt =>
    have hout' : s.unit.decFull.outLen = 3 * (s.unit.gi + 1) := by simp [hout, Nat.mul_add]
    exact sequencerOk_of_decode_busy hb hbase hop
      ((decodeCounters_of_groups (u := s.unit.decFull) hp).mpr ⟨hm, hng, hlt hb, hout'⟩)
  | fullLast => exact sequencerOk_of_decode_done rfl hop (hbound (Nat.le_refl 3))
  | tail2 => exact sequencerOk_of_decode_done rfl hop (hbound (by decide : 2 ≤ 3))
  | tail1 => exact sequencerOk_of_decode_done rfl hop (hbound (by decide : 1 ≤ 3))

/-- A step of a unit keeps the sequencer consistent. -/
theorem UnitStep.sequencerOk {s t : State} (h : UnitStep s t) (hs : sequencerOk s.unit) : sequencerOk t.unit := by
  have hstay := hs
  obtain ⟨hbase, henc, hdec, -⟩ := hs
  have hdone (hb : s.unit.state = .busy) (hop : cmdOp s.unit.cmd = 0#1) (hd : t.unit.state = .done) :
      t.unit.outLen = encodedLen s.unit.inLen := h.outLen_of_encode_done hb hop (henc hb hop) hd
  cases h with
  | stay => exact hstay
  | acceptEncode _ _ hbase' hop' => exact sequencerOk_acceptEncode _ hbase' hop'
  | acceptDecode _ _ hbase' hop' => exact sequencerOk_acceptDecode _ hbase' hop'
  | rawGroup hb hop hg =>
    obtain ⟨hng, hrem, -, hout⟩ := henc hb hop
    have hout' : s.unit.outLen + 4 = 4 * (s.unit.gi + 1) := by omega
    exact sequencerOk_of_encode_busy hb (hbase hb) hop ⟨hng, hrem, hg, hout'⟩
  | tail0 hb hop | tail1 hb hop | tail2 hb hop | tail3 hb hop =>
    exact sequencerOk_of_encode_done rfl hop (hdone hb hop rfl)
  | badLength _ hop => exact sequencerOk_of_fail (by simp) (by simpa using hop)
  | goodLength hb hop hp hm hn =>
    obtain ⟨hgi, hout⟩ := (decodeCounters_of_lengthCheck hp).mp (hdec hb hop)
    have hout' : s.unit.outLen = 3 * s.unit.gi := by omega
    exact sequencerOk_of_decode_busy hb (hbase hb) hop ((decodeCounters_of_groups rfl).mpr ⟨hm, rfl, hn, hout'⟩)
  | emptyInput hb hop hp =>
    obtain ⟨-, hout⟩ := (decodeCounters_of_lengthCheck hp).mp (hdec hb hop)
    exact sequencerOk_of_decode_done rfl hop (hout ▸ Nat.zero_le _)
  | textGroup hb hop hp _ _ _ _ _ _ _ _ _ hr => exact hr.sequencerOk hb hp (hbase hb) hop (hdec hb hop)
  | noGroup hb hop hp hg =>
    obtain ⟨-, -, hlt, -⟩ := (decodeCounters_of_groups hp).mp (hdec hb hop)
    exact absurd hlt (Nat.not_lt.mpr hg)

/-- Settles O52: by the induction over the units. -/
theorem sequencerStaysConsistent : Obligations.SequencerStaysConsistent := fun _ _ hs h =>
  forall_units_step hs h (fun _ _ hu hstep => hstep.sequencerOk hu) (fun _ _ _ hu => hu)
    fun _ _ _ => sequencerOk_of_idle rfl

/-- A step that leaves a running command running is the length check, or counts one group (10_state.md R25). -/
theorem UnitStep.gi_of_busy {s t : State} (h : UnitStep s t) (hb : s.unit.state = .busy)
    (hb' : t.unit.state = .busy) :
    (cmdOp s.unit.cmd = 1#1 ∧ s.unit.phase = .lengthCheck ∧ t.unit.gi = s.unit.gi ∧ t.unit.gi < t.unit.ng) ∨
    (t.unit.gi = s.unit.gi + 1 ∧ t.unit.gi ≤ t.unit.ng ∧ t.unit.ng = s.unit.ng) := by
  cases h with
  | stay hn | acceptEncode hn | acceptDecode hn => exact absurd hb hn
  | rawGroup _ _ hg => exact .inr ⟨rfl, hg, rfl⟩
  | tail0 | tail1 | tail2 | tail3 | badLength | emptyInput | noGroup => simp at hb'
  | goodLength _ hop hp _ hn => exact .inl ⟨hop, hp, rfl, hn⟩
  | textGroup _ _ _ _ _ _ _ _ _ _ _ _ hr =>
    cases hr with
    | full _ hlt => exact .inr ⟨rfl, Nat.le_of_lt (hlt hb), rfl⟩
    | badCharacter | badPadding | fullLast | tail2 | tail1 | trailing2 | trailing1 => simp at hb'

/-- Settles O58: what a step does to `GI` while the command goes on. -/
theorem groupIndexAdvancesByOne : Obligations.GroupIndexAdvancesByOne := fun _ _ _ hb h hb' =>
  (unitTurn_eq_next h).gi_of_busy hb hb'

end Sys2Proof.Machine

namespace Sys2Proof.Machine

open Sys2Proof.Safety

/-! ## Buffers (00_scope.md R14) -/

theorem isBuffer_ofList (vs : List Byte) : isBuffer (Memory.ofList vs) vs.length := by simp [isBuffer]

theorem isBuffer_nil : isBuffer [] 0 := isBuffer_ofList []

section
variable {m : Memory Byte} {n : Nat} (h : isBuffer m n)
include h

theorem length_values_of_isBuffer : m.values.length = n := by rw [Memory.values, List.length_map, h.2]

/-- Appending at the end of a buffer appends to its values. -/
theorem writeFrom_of_isBuffer (ws : List Byte) : Memory.writeFrom m n ws = Memory.ofList (m.values ++ ws) := by
  rw [← length_values_of_isBuffer h, ← writeFrom_ofList, ← h.1]

theorem values_writeFrom_of_isBuffer (ws : List Byte) : (Memory.writeFrom m n ws).values = m.values ++ ws := by
  rw [writeFrom_of_isBuffer h, values_ofList]

theorem isBuffer_writeFrom (ws : List Byte) : isBuffer (Memory.writeFrom m n ws) (n + ws.length) := by
  rw [writeFrom_of_isBuffer h, ← length_values_of_isBuffer h, ← List.length_append]
  exact isBuffer_ofList _

end

/-- A read of a whole input answers the byte at that index. -/
theorem getElem?_of_readIn {u : UnitState} {i : Nat} {b : Byte} (hin : isBuffer u.inBuf u.inLen)
    (h : readIn u i = .next b) : u.inBuf.values[i]? = some b := by
  rw [← read_ofList, ← hin.1]
  exact (readIn_eq_next.mp h).2

/-- A list from an index on, when the element there is known. -/
theorem drop_eq_cons_of_getElem? {l : List Byte} {i : Nat} {b : Byte} (h : l[i]? = some b) :
    l.drop i = b :: l.drop (i + 1) := by
  obtain ⟨hlt, rfl⟩ := List.getElem?_eq_some_iff.mp h
  exact List.drop_eq_getElem_cons hlt

/-! ## What a step of a running command keeps -/

theorem GroupResult.kept {s t : State} (h : GroupResult s t) :
    t.unit.cmd = s.unit.cmd ∧ t.unit.inLen = s.unit.inLen ∧ t.unit.inBuf = s.unit.inBuf ∧
      t.unit.cmdValid = s.unit.cmdValid ∧ t.unit.phase = s.unit.phase ∧ t.unit.ng = s.unit.ng := by
  cases h <;> exact ⟨rfl, rfl, rfl, rfl, rfl, rfl⟩

/-- A running command keeps its word and its input, and takes nothing from the port. -/
theorem UnitStep.kept_of_busy {s t : State} (h : UnitStep s t) (hb : s.unit.state = .busy) :
    t.unit.cmd = s.unit.cmd ∧ t.unit.inLen = s.unit.inLen ∧ t.unit.inBuf = s.unit.inBuf ∧
      t.unit.cmdValid = s.unit.cmdValid := by
  cases h with
  | acceptEncode hn | acceptDecode hn => exact absurd hb hn
  | textGroup _ _ _ _ _ _ _ _ _ _ _ _ hr =>
    obtain ⟨hcmd, hlen, hbuf, hv, -⟩ := hr.kept
    exact ⟨hcmd, hlen, hbuf, hv⟩
  | _ => exact ⟨rfl, rfl, rfl, rfl⟩

theorem GroupResult.ne_idle {s t : State} (h : GroupResult s t) (hb : s.unit.state = .busy) :
    t.unit.state ≠ .idle := by
  cases h <;> simp [hb]

/-- A running command does not become idle. -/
theorem UnitStep.ne_idle_of_busy {s t : State} (h : UnitStep s t) (hb : s.unit.state = .busy) :
    t.unit.state ≠ .idle := by
  cases h with
  | textGroup _ _ _ _ _ _ _ _ _ _ _ _ hr => exact hr.ne_idle hb
  | _ => simp [hb]

theorem UnitStep.port_kept {s t : State} (h : UnitStep s t) :
    t.unit.portIn = s.unit.portIn ∧ t.unit.portInLen = s.unit.portInLen := by
  cases h with
  | textGroup _ _ _ _ _ _ _ _ _ _ _ _ hr => cases hr <;> exact ⟨rfl, rfl⟩
  | _ => exact ⟨rfl, rfl⟩

theorem GroupResult.isBuffer_outBuf {s t : State} (h : GroupResult s t)
    (hout : isBuffer s.unit.outBuf s.unit.outLen) (hf : t.unit.state ≠ .fail) :
    isBuffer t.unit.outBuf t.unit.outLen := by
  cases h with
  | badCharacter | badPadding | trailing2 | trailing1 => simp at hf
  | full | fullLast | tail2 | tail1 => exact isBuffer_writeFrom hout _

/-- A running command appends to `OUT` at its end or leaves it, unless it fails. -/
theorem UnitStep.isBuffer_outBuf {s t : State} (h : UnitStep s t) (hb : s.unit.state = .busy)
    (hout : isBuffer s.unit.outBuf s.unit.outLen) (hf : t.unit.state ≠ .fail) :
    isBuffer t.unit.outBuf t.unit.outLen := by
  cases h with
  | acceptEncode hn | acceptDecode hn => exact absurd hb hn
  | stay | tail0 | goodLength | emptyInput | noGroup => exact hout
  | rawGroup | tail1 | tail2 | tail3 => exact isBuffer_writeFrom hout _
  | badLength => simp at hf
  | textGroup _ _ _ _ _ _ _ _ _ _ _ _ hr => exact hr.isBuffer_outBuf hout hf

/-! ## A running ENCODE computes `enc` (41_encoder.md R88) -/

theorem encodeOutput_of_busy {p : Params} {u : UnitState} (hb : u.state = .busy)
    (h : u.outBuf = Memory.ofList (enc (alphabetFn p u.asel) p.pad (u.inBuf.values.take (3 * u.gi)))) :
    encodeOutput p u :=
  ⟨fun _ => h, fun hd => by simp [hb] at hd⟩

theorem encodeOutput_of_done {p : Params} {u : UnitState} (hd : u.state = .done)
    (h : u.outBuf = Memory.ofList (enc (alphabetFn p u.asel) p.pad u.inBuf.values)) : encodeOutput p u :=
  ⟨fun hb => by simp [hd] at hb, fun _ => h⟩

/-- Appending the characters of the next group to those of full groups. -/
theorem writeFrom_enc (A : Sextet → Byte) (pad : Byte) {before group : List Byte} {gi : Nat}
    (hlen : before.length = 3 * gi) :
    Memory.writeFrom (Memory.ofList (enc A pad before)) (4 * gi) (enc A pad group) =
      Memory.ofList (enc A pad (before ++ group)) := by
  have hout : 4 * gi = (enc A pad before).length := by rw [length_enc, encodedLen]; omega
  rw [enc_append _ _ _ _ (by omega), hout, writeFrom_ofList]

/-- The input up to the end of a group that stands next in it. -/
theorem take_append_group {l group : List Byte} {i : Nat} (h : ∀ k b, group[k]? = some b → l[i + k]? = some b) :
    l.take (i + group.length) = l.take i ++ group := by
  rw [List.take_add]
  congr 1
  apply List.ext_getElem?
  intro k
  by_cases hk : k < group.length
  · rw [List.getElem?_take_of_lt hk, List.getElem?_drop, List.getElem?_eq_getElem hk]
    exact h k _ (List.getElem?_eq_getElem hk)
  · rw [List.getElem?_eq_none (Nat.not_lt.mp hk), List.getElem?_eq_none (by simp; omega)]

/-- A step of a running ENCODE reads the next group and appends its characters: three bytes and the command goes on, or
the `REM` bytes left over and it ends (41_encoder.md R77 to R81). -/
theorem UnitStep.encode_group {s t : State} (h : UnitStep s t) (hb : s.unit.state = .busy)
    (hop : cmdOp s.unit.cmd = 0#1) (hgi : s.unit.gi ≤ s.unit.ng) (hrem : s.unit.rem ≠ 3#2) :
    ∃ group : List Byte, (∀ k b, group[k]? = some b → readIn s.unit (3 * s.unit.gi + k) = .next b) ∧
      t.unit.outBuf = Memory.writeFrom s.unit.outBuf s.unit.outLen
        (enc (alphabetFn s.params s.unit.asel) s.params.pad group) ∧
      ((t.unit.state = .busy ∧ t.unit.gi = s.unit.gi + 1 ∧ group.length = 3) ∨
        (t.unit.state = .done ∧ s.unit.gi = s.unit.ng ∧ group.length = s.unit.rem.toNat)) := by
  cases h with
  | rawGroup _ _ _ r0 r1 r2 q0 q1 q2 q3 =>
    cases eq_alphabetFn_of_substChar q0
    cases eq_alphabetFn_of_substChar q1
    cases eq_alphabetFn_of_substChar q2
    cases eq_alphabetFn_of_substChar q3
    refine ⟨[_, _, _], fun k b hk => ?_, rfl, .inl ⟨hb, rfl, rfl⟩⟩
    match k, hk with
    | 0, rfl => exact r0
    | 1, rfl => exact r1
    | 2, rfl => exact r2
  | tail0 _ _ hg hr => exact ⟨[], nofun, rfl, .inr ⟨rfl, Nat.le_antisymm hgi hg, by rw [hr]; rfl⟩⟩
  | tail1 _ _ hg hr r0 q0 q1 =>
    have hlast := Nat.le_antisymm hgi hg
    rw [← hlast] at r0
    cases eq_alphabetFn_of_substChar q0
    cases eq_alphabetFn_of_substChar q1
    refine ⟨[_], fun k b hk => ?_, rfl, .inr ⟨rfl, hlast, by rw [hr]; rfl⟩⟩
    match k, hk with
    | 0, rfl => exact r0
  | tail2 _ _ hg hr r0 r1 q0 q1 q2 =>
    have hlast := Nat.le_antisymm hgi hg
    rw [← hlast] at r0 r1
    cases eq_alphabetFn_of_substChar q0
    cases eq_alphabetFn_of_substChar q1
    cases eq_alphabetFn_of_substChar q2
    refine ⟨[_, _], fun k b hk => ?_, rfl, .inr ⟨rfl, hlast, by rw [hr]; rfl⟩⟩
    match k, hk with
    | 0, rfl => exact r0
    | 1, rfl => exact r1
  | tail3 _ _ _ hr => exact absurd hr hrem
  | stay hn | acceptEncode hn | acceptDecode hn => exact absurd hb hn
  | badLength _ hop' | goodLength _ hop' | emptyInput _ hop' | textGroup _ hop' | noGroup _ hop' =>
    exact absurd (hop.symm.trans hop') (by decide)

/-- A step of a running ENCODE leaves `enc` of the groups done, or of the whole input when it ends. -/
theorem UnitStep.encodeOutput {s t : State} (h : UnitStep s t) (hb : s.unit.state = .busy)
    (hop : cmdOp s.unit.cmd = 0#1) (hin : isBuffer s.unit.inBuf s.unit.inLen) (hc : encodeCounters s.unit)
    (hs : encodeOutput s.params s.unit) : encodeOutput t.params t.unit := by
  obtain ⟨hng, hrem, hgi, hlen⟩ := hc
  obtain ⟨hdone, -⟩ := hs
  have hvals : s.unit.inBuf.values.length = s.unit.inLen := length_values_of_isBuffer hin
  have hrem3 : s.unit.rem ≠ 3#2 := fun h3 => by
    have : s.unit.rem.toNat = 3 := by rw [h3]; rfl
    omega
  obtain ⟨group, hread, hout, hnext⟩ := h.encode_group hb hop hgi hrem3
  have hinput := take_append_group fun k b hk => getElem?_of_readIn hin (hread k b hk)
  obtain ⟨hcmd, -, hbuf, -⟩ := h.kept_of_busy hb
  have hasel : t.unit.asel = s.unit.asel := by rw [UnitState.asel, UnitState.asel, hcmd]
  rw [hdone hb, hlen, writeFrom_enc _ _ (by rw [List.length_take]; omega), ← hinput] at hout
  rw [h.params_eq]
  obtain ⟨hbusy, hgi', hthree⟩ | ⟨hended, hlast, hleft⟩ := hnext
  · refine encodeOutput_of_busy hbusy ?_
    rw [hout, hasel, hbuf, hgi', hthree, Nat.mul_add]
  · refine encodeOutput_of_done hended ?_
    rw [hout, hasel, hbuf, List.take_of_length_le (by omega)]

end Sys2Proof.Machine

namespace Sys2Proof.Machine

open Sys2Proof.Safety

/-! ## A running DECODE computes `dec` (42_decoder.md R108) -/

/-- The table of an alphabet holds `build(ALPHA[a], PAD)` in the cell of every byte. -/
def tableHolds (s : State) (a : Asel) : Prop :=
  ∀ c : Byte, Memory.read (s.lut a) c.toNat = some (tableFn s.params a c)

/-- A lookup answers the layout of the entry that `dec` takes. -/
theorem layout_of_readLut {s : State} {c e : Byte} (ht : tableHolds s s.unit.asel) (h : readLut s c = .next e) :
    Entry.layout (tableFn s.params s.unit.asel c) = some e := by
  obtain ⟨-, x, hread, hx⟩ := readLut_eq_next.mp h
  obtain rfl : tableFn s.params s.unit.asel c = x := Option.some.inj ((ht c).symm.trans hread)
  exact hx

/-- `VAL` of an entry's byte is the sextet that `dec` takes. -/
theorem entryVal_eq_sextet {x : Entry} {e : Byte} (h : Entry.layout x = some e) : entryVal e = x.sextet := by
  obtain ⟨-, -, hvalue, hother⟩ := fields_of_layout h
  cases x with
  | value v => exact hvalue v rfl
  | padding | invalid => exact hother nofun

/-- What the lookup of a text group leaves in the unit: the class and the sextets of the entries that `dec` takes. -/
structure LooksUp (table : Byte → Entry) (c0 c1 c2 c3 : Byte) (u : UnitState) : Prop where
  gcw : instrClass (decodeGcw u.gcw) = some (classify (table c0) (table c1) (table c2) (table c3))
  v0 : u.v0 = (table c0).sextet
  v1 : u.v1 = (table c1).sextet
  v2 : u.v2 = (table c2).sextet
  v3 : u.v3 = (table c3).sextet

theorem looksUp_withGroup {table : Byte → Entry} {c0 c1 c2 c3 e0 e1 e2 e3 : Byte} (u : UnitState)
    (h0 : Entry.layout (table c0) = some e0) (h1 : Entry.layout (table c1) = some e1)
    (h2 : Entry.layout (table c2) = some e2) (h3 : Entry.layout (table c3) = some e3) :
    LooksUp table c0 c1 c2 c3 (u.withGroup c0 c1 c2 c3 e0 e1 e2 e3) :=
  ⟨instrClass_gcwOf h0 h1 h2 h3, entryVal_eq_sextet h0, entryVal_eq_sextet h1, entryVal_eq_sextet h2,
    entryVal_eq_sextet h3⟩

/-- What is left of `dec` after a step: the loop goes on, or it has ended with the bytes or with the error. -/
def continuesDec (table : Byte → Entry) (policy : TrailPolicy) (result : Except DecodeError (List Byte))
    (rest : List Byte) (u : UnitState) : Prop :=
  (u.state = .busy → result = decGo table policy rest u.outBuf.values) ∧
  (u.state = .done → result = .ok u.outBuf.values) ∧
  (∀ e, u.state = .fail → u.err = some e → result = .error e)

section
variable {table : Byte → Entry} {policy : TrailPolicy} {result : Except DecodeError (List Byte)} {rest : List Byte}
  {u : UnitState}

theorem continuesDec_of_busy (hb : u.state = .busy) (h : result = decGo table policy rest u.outBuf.values) :
    continuesDec table policy result rest u := by
  simp [continuesDec, hb, h]

theorem continuesDec_of_done (hd : u.state = .done) (h : result = .ok u.outBuf.values) :
    continuesDec table policy result rest u := by
  simp [continuesDec, hd, h]

theorem continuesDec_raiseError {e : DecodeError} (s : State) (h : result = .error e) :
    continuesDec table policy result rest (raiseError e s).unit := by
  simp [continuesDec, h]

end

/-- A text group does one turn of the loop of `dec`: the class decides both. -/
theorem GroupResult.continuesDec {s t : State} (h : GroupResult s t) {table : Byte → Entry} {c0 c1 c2 c3 : Byte}
    {rest : List Byte} (hl : LooksUp table c0 c1 c2 c3 s.unit) (hb : s.unit.state = .busy)
    (hout : isBuffer s.unit.outBuf s.unit.outLen) (hrest : rest = [] ↔ s.unit.ng ≤ s.unit.gi + 1) :
    continuesDec table s.params.trail (decGo table s.params.trail (c0 :: c1 :: c2 :: c3 :: rest) s.unit.outBuf.values)
      rest t.unit := by
  obtain ⟨hgcw, h0, h1, h2, h3⟩ := hl
  have hclass {c : GroupClass} (g : instrClass (decodeGcw s.unit.gcw) = some c) :
      classify (table c0) (table c1) (table c2) (table c3) = c := Option.some.inj (hgcw.symm.trans g)
  have hvalues (ws : List Byte) := values_writeFrom_of_isBuffer hout ws
  cases h with
  | badCharacter g => exact continuesDec_raiseError _ (decGo_of_badChar (hclass g))
  | badPadding g => exact continuesDec_raiseError _ (decGo_of_badPad (hclass g))
  | full g => exact continuesDec_of_busy hb (by simp [decGo_of_full (hclass g), hvalues, h0, h1, h2, h3])
  | fullLast g _ hlast =>
    refine continuesDec_of_done rfl ?_
    rw [decGo_of_full (hclass g), hrest.mpr hlast, decGo]
    simp [hvalues, h0, h1, h2, h3]
  | tail2 g hend =>
    rw [← hrest] at hend
    refine continuesDec_of_done rfl ?_
    rw [decGo_of_tail2 (hclass g), if_neg (not_trailing_of_ignore_or_nil hend)]
    simp [hvalues, h0, h1, h2]
  | tail1 g hend =>
    rw [← hrest] at hend
    refine continuesDec_of_done rfl ?_
    rw [decGo_of_tail1 (hclass g), if_neg (not_trailing_of_ignore_or_nil hend)]
    simp [hvalues, h0, h1]
  | trailing2 g hp hlt =>
    exact continuesDec_raiseError _
      (decGo_of_tail_of_reject (fun hnil => Nat.not_le.mpr hlt (hrest.mp hnil)) hp (.inl (hclass g)))
  | trailing1 g hp hlt =>
    exact continuesDec_raiseError _
      (decGo_of_tail_of_reject (fun hnil => Nat.not_le.mpr hlt (hrest.mp hnil)) hp (.inr (hclass g)))

/-- What is left of `dec` of the whole input makes the unit's output the one that `dec` gives. -/
theorem decodeOutput_of_continuesDec {p : Params} {u : UnitState} {rest : List Byte}
    (hbusy : u.state = .busy → u.phase = .groups ∧ rest = u.inBuf.values.drop (4 * u.gi))
    (hbuf : u.state ≠ .fail → isBuffer u.outBuf u.outLen)
    (h : continuesDec (tableFn p u.asel) p.trail (dec (tableFn p u.asel) p.trail u.inBuf.values) rest u) :
    decodeOutput p u := by
  obtain ⟨hgo, hdone, hfail⟩ := h
  refine ⟨fun hb hp => ?_, fun hb _ => ⟨(hbuf (by simp [hb])).1, ?_⟩,
    fun hd => ⟨(hbuf (by simp [hd])).1, hdone hd⟩, hfail⟩
  · rw [(hbusy hb).1] at hp
    cases hp
  · rw [← (hbusy hb).2, ← hgo hb]

/-- The input from its next group of four characters on. -/
theorem drop_next_group {l : List Byte} {i : Nat} {c0 c1 c2 c3 : Byte} (h0 : l[i]? = some c0) (h1 : l[i + 1]? = some c1)
    (h2 : l[i + 2]? = some c2) (h3 : l[i + 3]? = some c3) : l.drop i = c0 :: c1 :: c2 :: c3 :: l.drop (i + 4) := by
  rw [drop_eq_cons_of_getElem? h0, drop_eq_cons_of_getElem? h1, drop_eq_cons_of_getElem? h2,
    drop_eq_cons_of_getElem? h3]

/-- A step of a running DECODE does `DEC.LEN` or one turn of the loop of `dec` (42_decoder.md R89). -/
theorem UnitStep.decodeOutput {s t : State} (h : UnitStep s t) (hb : s.unit.state = .busy)
    (hop : cmdOp s.unit.cmd = 1#1) (ht : tableHolds s s.unit.asel) (hin : isBuffer s.unit.inBuf s.unit.inLen)
    (hout : isBuffer s.unit.outBuf s.unit.outLen) (hc : decodeCounters s.unit) (hs : decodeOutput s.params s.unit) :
    decodeOutput t.params t.unit := by
  obtain ⟨hempty, hgroups, -, -⟩ := hs
  have hvals : s.unit.inBuf.values.length = s.unit.inLen := length_values_of_isBuffer hin
  have hbuf := h.isBuffer_outBuf hb hout
  have hnext := h.gi_of_busy hb
  have hparams : t.params = s.params := h.params_eq
  obtain ⟨hcmd, -, hinput, -⟩ := h.kept_of_busy hb
  have hasel : t.unit.asel = s.unit.asel := by rw [UnitState.asel, UnitState.asel, hcmd]
  have hstart (hp : s.unit.phase = .lengthCheck) (hm : s.unit.inLen % 4 = 0) :
      dec (tableFn s.params s.unit.asel) s.params.trail s.unit.inBuf.values =
        decGo (tableFn s.params s.unit.asel) s.params.trail s.unit.inBuf.values s.unit.outBuf.values := by
    rw [dec_of_length_mod_eq (hvals ▸ hm), hempty hb hp]
    rfl
  cases h with
  | badLength _ _ _ hm =>
    refine decodeOutput_of_continuesDec (rest := []) (by simp) hbuf (continuesDec_raiseError _ ?_)
    exact dec_of_length_mod_ne (hvals ▸ hm)
  | goodLength _ _ hp hm =>
    obtain ⟨hgi, -⟩ := (decodeCounters_of_lengthCheck hp).mp hc
    have hdrop : s.unit.inBuf.values = s.unit.inBuf.values.drop (4 * s.unit.gi) := by simp [hgi]
    exact decodeOutput_of_continuesDec (fun _ => ⟨rfl, hdrop⟩) hbuf (continuesDec_of_busy hb (hstart hp hm))
  | emptyInput _ _ hp hm hn =>
    obtain ⟨hgi, -⟩ := (decodeCounters_of_lengthCheck hp).mp hc
    have hnil : s.unit.inBuf.values = [] := List.eq_nil_of_length_eq_zero (by omega)
    have hdec := hstart hp hm
    rw [hnil, decGo, ← hnil] at hdec
    exact decodeOutput_of_continuesDec (rest := []) (by simp) hbuf (continuesDec_of_done rfl hdec)
  | textGroup _ _ hp hg r0 r1 r2 r3 l0 l1 l2 l3 hr =>
    obtain ⟨hm, hng, -, -⟩ := (decodeCounters_of_groups hp).mp hc
    have hdrop := drop_next_group (getElem?_of_readIn hin r0) (getElem?_of_readIn hin r1) (getElem?_of_readIn hin r2)
      (getElem?_of_readIn hin r3)
    have hrest : s.unit.inBuf.values.drop (4 * s.unit.gi + 4) = [] ↔ s.unit.ng ≤ s.unit.gi + 1 := by
      rw [List.drop_eq_nil_iff]; omega
    have hlooks := looksUp_withGroup s.unit (layout_of_readLut ht l0) (layout_of_readLut ht l1)
      (layout_of_readLut ht l2) (layout_of_readLut ht l3)
    have hgi (hb' : t.unit.state = .busy) : t.unit.gi = s.unit.gi + 1 := by
      obtain ⟨_, hp', _⟩ | ⟨hgi, _⟩ := hnext hb'
      · rw [hp] at hp'; cases hp'
      · exact hgi
    obtain ⟨-, -, -, -, hphase, -⟩ := hr.kept
    refine decodeOutput_of_continuesDec (rest := s.unit.inBuf.values.drop (4 * s.unit.gi + 4))
      (fun hb' => ⟨hphase.trans hp, ?_⟩) hbuf ?_
    · rw [hgi hb', hinput]
      rfl
    · rw [hasel, hparams, hinput, ← (hgroups hb hp).2, hdrop]
      exact hr.continuesDec hlooks hb hout hrest
  | noGroup _ _ hp hg =>
    obtain ⟨-, -, hlt, -⟩ := (decodeCounters_of_groups hp).mp hc
    exact absurd hlt (Nat.not_lt.mpr hg)
  | stay hn | acceptEncode hn | acceptDecode hn => exact absurd hb hn
  | rawGroup _ hop' | tail0 _ hop' | tail1 _ hop' | tail2 _ hop' | tail3 _ hop' =>
    exact absurd (hop'.symm.trans hop) (by decide)

end Sys2Proof.Machine

namespace Sys2Proof.Machine

open Sys2Proof.Safety

/-! ## The codec computes `enc` and `dec` (00_scope.md R14) -/

/-- A unit's correctness depends on the parameters and on which tables are valid only, and a table more does no harm. -/
theorem unitCorrect_mono {s t : State} {u : UnitState} (hp : t.params = s.params)
    (hv : ∀ a, s.lutValid a = true → t.lutValid a = true) (h : unitCorrect s u) : unitCorrect t u := by
  obtain ⟨hstatus, hseq, hport, hin, hlen, hvalid, henc, hdec⟩ := h
  refine ⟨hstatus, hseq, hport, hin, hlen, fun hb hop => hv _ (hvalid hb hop), ?_, ?_⟩
  · rwa [hp]
  · rwa [hp]

/-- `OUT` of a running command is a buffer of `OUT_LEN` bytes. -/
theorem isBuffer_outBuf_of_unitCorrect {s : State} {u : UnitState} (h : unitCorrect s u) (hb : u.state = .busy) :
    isBuffer u.outBuf u.outLen := by
  obtain ⟨-, -, -, -, hlen, -, henc, hdec⟩ := h
  refine ⟨?_, hlen (.inl hb)⟩
  by_cases hop : cmdOp u.cmd = 0#1
  · rw [(henc hop).1 hb, values_ofList]
  · obtain ⟨hempty, hgroups, -⟩ := hdec (eq_one_of_ne_zero hop)
    cases hp : u.phase with
    | lengthCheck => rw [hempty hb hp]; rfl
    | groups => exact (hgroups hb hp).1

/-- Acceptance of an ENCODE: nothing of the whole input on the port is done yet. -/
theorem unitCorrect_acceptEncode (s : State) {u : UnitState} {w : BitVec 4} (hport : isBuffer u.portIn u.portInLen)
    (hbase : cmdBase w = 0#2) (hop : cmdOp w = 0#1) : unitCorrect s (u.acceptEncode w) :=
  ⟨statusOk_of_no_error (by simp) rfl, sequencerOk_acceptEncode u hbase hop, hport, fun _ => hport, fun _ => rfl,
    fun _ h => absurd (hop.symm.trans h) (by decide), fun _ => encodeOutput_of_busy rfl rfl,
    fun h => absurd (hop.symm.trans h) (by decide)⟩

/-- Acceptance of a DECODE: its table is valid and its length check is owed. -/
theorem unitCorrect_acceptDecode {s : State} {u : UnitState} {w : BitVec 4} (hport : isBuffer u.portIn u.portInLen)
    (hbase : cmdBase w = 0#2) (hop : cmdOp w = 1#1) (hl : s.lutValid (cmdAsel w) = true) :
    unitCorrect s (u.acceptDecode w) :=
  ⟨statusOk_of_no_error (by simp) rfl, sequencerOk_acceptDecode u hbase hop, hport, fun _ => hport, fun _ => rfl,
    fun _ _ => hl, fun h => absurd (h.symm.trans hop) (by decide),
    fun _ => by simp [Safety.decodeOutput]⟩

/-- A step of a running command keeps its unit correct, if its table, where it needs one, is built. -/
theorem UnitStep.unitCorrect_of_busy {s t : State} (h : UnitStep s t) (hb : s.unit.state = .busy)
    (ht : cmdOp s.unit.cmd = 1#1 → tableHolds s s.unit.asel) (hs : unitCorrect s s.unit) : unitCorrect t t.unit := by
  have hout := isBuffer_outBuf_of_unitCorrect hs hb
  obtain ⟨hstatus, hseq, hport, hin, -, hvalid, henc, hdec⟩ := hs
  have hin := hin (by simp [hb])
  obtain ⟨hcmd, hinLen, hinBuf, -⟩ := h.kept_of_busy hb
  obtain ⟨hportIn, hportInLen⟩ := h.port_kept
  obtain ⟨-, -, -, hl0, hl1, hv0, hv1⟩ := h.frame
  obtain ⟨-, hencode, hdecode, -⟩ := id hseq
  have hasel : t.unit.asel = s.unit.asel := by rw [UnitState.asel, UnitState.asel, hcmd]
  refine ⟨h.statusOk hstatus, h.sequencerOk hseq, by rwa [hportIn, hportInLen], fun _ => by rwa [hinBuf, hinLen],
    fun hrun => (h.isBuffer_outBuf hb hout ?_).2, fun _ hop => ?_, fun hop => ?_, fun hop => ?_⟩
  · rcases hrun with hr | hr <;> simp [hr]
  · rw [(lut_congr hl0 hl1 hv0 hv1 _).2, hasel]
    exact hvalid hb (hcmd ▸ hop)
  · rw [hcmd] at hop
    exact h.encodeOutput hb hop hin (hencode hb hop) (henc hop)
  · rw [hcmd] at hop
    exact h.decodeOutput hb hop (ht hop) hin hout (hdecode hb hop) (hdec hop)

/-- A step of a unit keeps it correct when every valid table is built. -/
theorem UnitStep.unitCorrect {s t : State} (h : UnitStep s t) (ht : tablesBuilt s) (hs : unitCorrect s s.unit) :
    unitCorrect t t.unit := by
  obtain ⟨-, -, hport, -, -, hvalid, -⟩ := id hs
  by_cases hb : s.unit.state = .busy
  · exact h.unitCorrect_of_busy hb (fun hop => ht _ (hvalid hb hop)) hs
  · cases h with
    | stay => exact hs
    | acceptEncode _ _ hbase hop => exact unitCorrect_acceptEncode _ hport hbase hop
    | acceptDecode _ _ hbase hop hl => exact unitCorrect_acceptDecode hport hbase hop ((lut_withUnit _ _ _).2.trans hl)
    | rawGroup hb' | tail0 hb' | tail1 hb' | tail2 hb' | tail3 hb' | badLength hb' | goodLength hb' | emptyInput hb'
    | textGroup hb' | noGroup hb' => exact absurd hb' hb

/-- A command presented leaves what the unit has done, with the whole input on the port. -/
theorem unitCorrect_present {s : State} {u : UnitState} (w : BitVec 4) (bs : List Byte) (h : unitCorrect s u) :
    unitCorrect s (u.present w bs) := by
  obtain ⟨hstatus, hseq, -, hin, hlen, hvalid, henc, hdec⟩ := h
  exact ⟨hstatus, hseq, isBuffer_ofList bs, hin, hlen, hvalid, henc, hdec⟩

/-- Nothing is asked of an idle unit but the input on its port. -/
theorem unitCorrect_of_idle (s : State) {u : UnitState} (hs : u.state = .idle) (he : u.err = none)
    (hport : isBuffer u.portIn u.portInLen) : unitCorrect s u := by
  refine ⟨statusOk_of_no_error (by simp [hs]) he, sequencerOk_of_idle hs, hport, ?_, ?_, ?_, ?_, ?_⟩
  all_goals simp [hs, Safety.encodeOutput, Safety.decodeOutput]

/-- A step keeps the valid tables built. -/
theorem tablesBuilt_step {s t : State} (h : MachineStep s t) (hs : tablesBuilt s) : tablesBuilt t := by
  intro a hv c
  rw [h.params_eq]
  obtain ⟨hlut, hvalid⟩ | ⟨_, hlut, _⟩ | ⟨_, _, hvalid⟩ := h.table_cases a
  · rw [hlut]
    exact hs a (hvalid.symm.trans hv) c
  · rw [hlut]
    exact read_buildTable_toNat _ _ c
  · rw [hvalid] at hv
    cases hv

/-- BUILD leaves a valid table valid. -/
theorem lutValid_withTable (s : State) (t : Memory Entry) (a : Asel) {b : Asel} (h : s.lutValid b = true) :
    (s.withTable t a).lutValid b = true := by
  by_cases hab : b = a
  · rw [hab]; exact (withTable_lut s t a).2
  · rw [(withTable_lut_other s t hab).2]; exact h

/-- A step keeps every unit correct. -/
theorem forall_unitCorrect_step {s t : State} (h : MachineStep s t) (ht : tablesBuilt s)
    (hs : ∀ u ∈ unitsOf s, unitCorrect s u) : ∀ u ∈ unitsOf t, unitCorrect t u := by
  obtain ⟨hfocus, hothers⟩ := List.forall_mem_cons.mp hs
  have hevents (es : List Event) {u : UnitState} (hu : unitCorrect s u) : unitCorrect (s.withEvents es) u :=
    unitCorrect_mono rfl (fun a ha => ((lut_withEvents s es a).2.trans ha)) hu
  cases h with
  | unit es h =>
    obtain ⟨ho, hp, -, hl0, hl1, hv0, hv1⟩ := h.frame
    have htables : tablesBuilt (s.withEvents es) := tablesBuilt_step (.nothing es) ht
    rw [unitsOf, ho]
    refine List.forall_mem_cons.mpr ⟨h.unitCorrect htables (hevents es hfocus), fun u hu => ?_⟩
    exact unitCorrect_mono hp (fun a ha => (lut_congr hl0 hl1 hv0 hv1 a).2.trans ha) (hevents es (hothers u hu))
  | build es a hv hn =>
    intro u hu
    obtain ⟨hp, hunit, hrest, -⟩ :=
      withTable_kept (s.withEvents es) (buildTable (alphaOf s.params a) s.params.pad) a
    rw [unitsOf, hunit, hrest] at hu
    exact unitCorrect_mono hp (fun b hb => lutValid_withTable _ _ a hb) (hevents es (hs u hu))
  | rotate es =>
    intro u hu
    obtain ⟨hp, -, hl0, hl1, hv0, hv1⟩ := rotate_kept (s.withEvents es)
    exact unitCorrect_mono hp (fun a ha => (lut_congr hl0 hl1 hv0 hv1 a).2.trans ha)
      (hevents es (hs u (mem_rotate (s := s.withEvents es) hu)))
  | present es w bs hv =>
    refine List.forall_mem_cons.mpr ⟨?_, fun u hu => ?_⟩
    · exact unitCorrect_present w bs (hevents es hfocus)
    · exact hevents es (hothers u hu)
  | reset es he =>
    intro u hu
    rw [unitsOf_applyReset] at hu
    obtain ⟨v, hv, bs, rfl⟩ := mem_resetOthers hu
    obtain ⟨-, -, hport, -⟩ := hs v hv
    exact unitCorrect_of_idle _ rfl rfl hport
  | nothing es => exact fun u hu => hevents es (hs u hu)

/-- Settles O53: the tables and the units, by what a step can do. -/
theorem codecStaysCorrect : Obligations.CodecStaysCorrect := fun _ _ ⟨ht, hs⟩ h =>
  ⟨tablesBuilt_step (step_eq_next h) ht, forall_unitCorrect_step (step_eq_next h) ht hs⟩

/-- Settles O54: no table is valid, and the one unit is idle with nothing on its port. -/
theorem resetMeetsTheInvariants : Obligations.ResetMeetsTheInvariants := by
  have hunits {P : UnitState → Prop} (h : P UnitState.reset) : ∀ u ∈ unitsOf State.reset, P u :=
    List.forall_mem_singleton.mpr h
  refine ⟨rfl, hunits (statusOk_of_no_error (by decide) rfl), hunits (sequencerOk_of_idle rfl), fun a hv => ?_,
    hunits (unitCorrect_of_idle _ rfl rfl isBuffer_nil)⟩
  cases a <;> cases hv

end Sys2Proof.Machine

namespace Sys2Proof.Machine

open Sys2Proof.Safety

/-! ## A running command always has a next step (70_reset_and_hazards.md R154) -/

/-- A read below the length of a whole input answers. -/
theorem exists_readIn {u : UnitState} {i : Nat} (hin : isBuffer u.inBuf u.inLen) (hi : i < u.inLen) :
    ∃ b, readIn u i = .next b := by
  have hlt : i < u.inBuf.values.length := (length_values_of_isBuffer hin).symm ▸ hi
  obtain ⟨b, hb⟩ : ∃ b, u.inBuf.values[i]? = some b := ⟨_, List.getElem?_eq_getElem hlt⟩
  exact ⟨b, readIn_eq_next.mpr ⟨hi, by rwa [hin.1, read_ofList]⟩⟩

/-- A lookup in a built table of 64 characters answers. -/
theorem exists_readLut {s : State} (halen : alen s.params s.unit.asel = 64) (ht : tableHolds s s.unit.asel) (c : Byte) :
    ∃ e, readLut s c = .next e := by
  obtain ⟨e, he, -⟩ := layout_of_read_buildTable (Nat.le_of_eq halen) (read_buildTable_toNat _ s.params.pad c)
  exact ⟨e, readLut_eq_next.mpr ⟨halen, _, ht c, he⟩⟩

/-- The action of every class completes. -/
theorem exists_exec_decodeGcw (g : BitVec 8) (s : State) : ∃ t, exec (decodeGcw g) s = .next t := by
  have hclass := isSome_instrClass_decodeGcw g
  cases hi : decodeGcw g with
  | decBadcharP0 | decBadcharP1 | decBadcharP2 | decBadcharP3 | decFull | decTail2 | decTail1 | decBadpadP2
  | decBadpadP1 | decBadpadP0 => exact ⟨_, rfl⟩
  | _ => rw [hi] at hclass; cases hclass

theorem exists_endIfComplete (s : State) : ∃ t, endIfComplete s = .next t := by
  obtain ⟨_, _, h⟩ | ⟨_, h⟩ := endIfComplete_cases s
  · exact ⟨_, h⟩
  · exact ⟨_, h⟩

/-- A chain whose first part answers does what follows. -/
theorem exists_chain {α β : Type} {o : Ans α} {f : α → Ans β} (ho : ∃ a, o = .next a) (hf : ∀ a, ∃ b, f a = .next b) :
    ∃ b, chain o f = .next b := by
  obtain ⟨a, rfl⟩ := ho
  exact hf a

/-- A running ENCODE has a next step: its bytes are there and every sextet has a character. -/
theorem exists_unitTurn_of_encode {s : State} (hb : s.unit.state = .busy) (hop : cmdOp s.unit.cmd = 0#1)
    (halen : alen s.params s.unit.asel = 64) (hin : isBuffer s.unit.inBuf s.unit.inLen)
    (hc : encodeCounters s.unit) : ∃ t, unitTurn s = .next t := by
  obtain ⟨hng, hrem, hgi, -⟩ := hc
  by_cases hg : s.unit.gi < s.unit.ng
  · rw [unitTurn_of_rawGroup hb hop hg]
    obtain ⟨b0, h0⟩ := exists_readIn (i := 3 * s.unit.gi) hin (by omega)
    obtain ⟨b1, h1⟩ := exists_readIn (i := 3 * s.unit.gi + 1) hin (by omega)
    obtain ⟨b2, h2⟩ := exists_readIn (i := 3 * s.unit.gi + 2) hin (by omega)
    exact exists_chain ⟨_, execEncG3_of_reads (s := s.withUnit (s.unit.withCnt 3#2)) halen h0 h1 h2⟩ fun _ => ⟨_, rfl⟩
  · rw [unitTurn_of_tail hb hop (by omega)]
    refine exists_chain ?_ fun _ => ⟨_, rfl⟩
    have hcases : s.unit.rem = 0#2 ∨ s.unit.rem = 1#2 ∨ s.unit.rem = 2#2 := by bv_omega
    obtain hr | hr | hr := hcases
    · rw [hr]
      exact ⟨_, rfl⟩
    · rw [hr] at hrem ⊢
      obtain ⟨b0, h0⟩ := exists_readIn (i := 3 * s.unit.ng) hin (by simp at hrem; omega)
      exact ⟨_, execEncT1_of_reads (s := s.withUnit (s.unit.withCnt 1#2)) halen h0⟩
    · rw [hr] at hrem ⊢
      obtain ⟨b0, h0⟩ := exists_readIn (i := 3 * s.unit.ng) hin (by simp at hrem; omega)
      obtain ⟨b1, h1⟩ := exists_readIn (i := 3 * s.unit.ng + 1) hin (by simp at hrem; omega)
      exact ⟨_, execEncT2_of_reads (s := s.withUnit (s.unit.withCnt 2#2)) halen h0 h1⟩

/-- A running DECODE has a next step: its characters are there and its table is built. -/
theorem exists_unitTurn_of_decode {s : State} (hb : s.unit.state = .busy) (hop : cmdOp s.unit.cmd = 1#1)
    (halen : alen s.params s.unit.asel = 64) (ht : tableHolds s s.unit.asel)
    (hin : isBuffer s.unit.inBuf s.unit.inLen) (hc : decodeCounters s.unit) : ∃ t, unitTurn s = .next t := by
  cases hp : s.unit.phase with
  | lengthCheck =>
    rw [unitTurn_of_lengthCheck hb hop hp]
    refine exists_chain ?_ exists_endIfComplete
    obtain ⟨_, h⟩ | ⟨_, h⟩ := execDecLen_cases s
    · exact ⟨_, h⟩
    · exact ⟨_, h⟩
  | groups =>
    obtain ⟨hm, hng, hg, -⟩ := (decodeCounters_of_groups hp).mp hc
    rw [unitTurn_of_textGroup hb hop hp hg]
    obtain ⟨c0, h0⟩ := exists_readIn (i := 4 * s.unit.gi) hin (by omega)
    obtain ⟨c1, h1⟩ := exists_readIn (i := 4 * s.unit.gi + 1) hin (by omega)
    obtain ⟨c2, h2⟩ := exists_readIn (i := 4 * s.unit.gi + 2) hin (by omega)
    obtain ⟨c3, h3⟩ := exists_readIn (i := 4 * s.unit.gi + 3) hin (by omega)
    have hlookup (c : Byte) : ∃ e, readLut (s.withUnit { s.unit with k0 := c0, k1 := c1, k2 := c2, k3 := c3 }) c = .next e :=
      (exists_readLut halen ht c).imp fun e he => (readLut_withUnit s rfl c).trans he
    obtain ⟨e0, l0⟩ := hlookup c0
    obtain ⟨e1, l1⟩ := hlookup c1
    obtain ⟨e2, l2⟩ := hlookup c2
    obtain ⟨e3, l3⟩ := hlookup c3
    have hfetch : exec .decFetch s = _ := execDecFetch_of_reads h0 h1 h2 h3
    have hlooked : exec .decLookup (s.withUnit { s.unit with k0 := c0, k1 := c1, k2 := c2, k3 := c3 }) = _ :=
      execDecLookup_of_reads l0 l1 l2 l3
    rw [textGroup, hfetch, chain_next, hlooked, chain_next]
    exact exists_chain ⟨_, rfl⟩ fun _ => exists_chain (exists_exec_decodeGcw _ _) exists_endIfComplete

/-! ## The run of a command (43_host_interface_and_variants.md R121, R123) -/

/-- How many steps a running command takes at most: its groups left, and one more for the tail of an ENCODE or for the
length check of a DECODE. -/
def stepsLeft (u : UnitState) : Nat :=
  if cmdOp u.cmd = 0#1 then u.ng - u.gi + 1
  else match u.phase with
    | .lengthCheck => u.inLen / 4 + 1
    | .groups => u.ng - u.gi

theorem stepsLeft_of_encode {u : UnitState} (hop : cmdOp u.cmd = 0#1) : stepsLeft u = u.ng - u.gi + 1 := if_pos hop

theorem stepsLeft_of_lengthCheck {u : UnitState} (hop : cmdOp u.cmd = 1#1) (hp : u.phase = .lengthCheck) :
    stepsLeft u = u.inLen / 4 + 1 := by
  simp [stepsLeft, hop, hp]

theorem stepsLeft_of_groups {u : UnitState} (hop : cmdOp u.cmd = 1#1) (hp : u.phase = .groups) :
    stepsLeft u = u.ng - u.gi := by
  simp [stepsLeft, hop, hp]

/-- A command that goes on has fewer steps left. -/
theorem UnitStep.stepsLeft_lt {s t : State} (h : UnitStep s t) (hb : s.unit.state = .busy)
    (hb' : t.unit.state = .busy) : stepsLeft t.unit < stepsLeft s.unit := by
  have hcmd : cmdOp t.unit.cmd = cmdOp s.unit.cmd := congrArg cmdOp (h.kept_of_busy hb).1
  cases h with
  | stay hn | acceptEncode hn | acceptDecode hn => exact absurd hb hn
  | rawGroup _ hop hg =>
    calc
      stepsLeft _ = s.unit.ng - (s.unit.gi + 1) + 1 := stepsLeft_of_encode (hcmd.trans hop)
      _ < s.unit.ng - s.unit.gi + 1 := by omega
      _ = stepsLeft s.unit := (stepsLeft_of_encode hop).symm
  | tail0 | tail1 | tail2 | tail3 | badLength | emptyInput | noGroup => simp at hb'
  | goodLength _ hop hp _ hn =>
    calc
      stepsLeft _ = s.unit.inLen / 4 - s.unit.gi := stepsLeft_of_groups (hcmd.trans hop) rfl
      _ < s.unit.inLen / 4 + 1 := by omega
      _ = stepsLeft s.unit := (stepsLeft_of_lengthCheck hop hp).symm
  | textGroup _ hop hp hg _ _ _ _ _ _ _ _ hr =>
    cases hr with
    | full =>
      calc
        stepsLeft _ = s.unit.ng - (s.unit.gi + 1) := stepsLeft_of_groups (hcmd.trans hop) hp
        _ < s.unit.ng - s.unit.gi := by omega
        _ = stepsLeft s.unit := (stepsLeft_of_groups hop hp).symm
    | badCharacter | badPadding | fullLast | tail2 | tail1 | trailing2 | trailing1 => simp at hb'

theorem stepsLeft_pos {u : UnitState} (hb : u.state = .busy) (h : sequencerOk u) : 0 < stepsLeft u := by
  obtain ⟨-, -, hdec, -⟩ := h
  by_cases hop : cmdOp u.cmd = 0#1
  · rw [stepsLeft_of_encode hop]; omega
  · have hop := eq_one_of_ne_zero hop
    cases hp : u.phase with
    | lengthCheck => rw [stepsLeft_of_lengthCheck hop hp]; omega
    | groups =>
      obtain ⟨-, -, hg, -⟩ := (decodeCounters_of_groups hp).mp (hdec hb hop)
      rw [stepsLeft_of_groups hop hp]; omega

/-- A unit whose command runs to its end by itself: correct, nothing on its port, an alphabet of 64 characters, and, for
a DECODE, its table built. -/
structure Runnable (s : State) : Prop where
  correct : unitCorrect s s.unit
  portFree : s.unit.cmdValid = false
  alen : alen s.params s.unit.asel = 64
  table : cmdOp s.unit.cmd = 1#1 → tableHolds s s.unit.asel

/-- The same command over the same input, in the same surroundings. -/
structure SameCommand (s t : State) : Prop where
  cmd : t.unit.cmd = s.unit.cmd
  input : t.unit.inBuf = s.unit.inBuf
  inLen : t.unit.inLen = s.unit.inLen
  others : t.others = s.others
  params : t.params = s.params
  tables : t.lut0 = s.lut0 ∧ t.lut1 = s.lut1

theorem SameCommand.refl (s : State) : SameCommand s s := ⟨rfl, rfl, rfl, rfl, rfl, rfl, rfl⟩

theorem SameCommand.trans {s t v : State} (h : SameCommand s t) (h' : SameCommand t v) : SameCommand s v :=
  ⟨h'.cmd.trans h.cmd, h'.input.trans h.input, h'.inLen.trans h.inLen, h'.others.trans h.others,
    h'.params.trans h.params, h'.tables.1.trans h.tables.1, h'.tables.2.trans h.tables.2⟩

theorem UnitStep.sameCommand {s t : State} (h : UnitStep s t) (hb : s.unit.state = .busy) : SameCommand s t := by
  obtain ⟨hcmd, hlen, hbuf, -⟩ := h.kept_of_busy hb
  obtain ⟨ho, hp, -, hl0, hl1, -⟩ := h.frame
  exact ⟨hcmd, hbuf, hlen, ho, hp, hl0, hl1⟩

theorem UnitStep.runnable {s t : State} (h : UnitStep s t) (hb : s.unit.state = .busy) (hs : Runnable s) :
    Runnable t := by
  obtain ⟨hcmd, -, -, hv⟩ := h.kept_of_busy hb
  obtain ⟨-, hp, -, hl0, hl1, hv0, hv1⟩ := h.frame
  have hasel : t.unit.asel = s.unit.asel := by rw [UnitState.asel, UnitState.asel, hcmd]
  refine ⟨h.unitCorrect_of_busy hb hs.table hs.correct, hv.trans hs.portFree, ?_, fun hop c => ?_⟩
  · rw [hp, hasel]; exact hs.alen
  · rw [hasel, (lut_congr hl0 hl1 hv0 hv1 _).1, hp]
    exact hs.table (hcmd ▸ hop) c

theorem Runnable.exists_unitTurn {s : State} (h : Runnable s) (hb : s.unit.state = .busy) :
    ∃ t, unitTurn s = .next t := by
  obtain ⟨-, ⟨-, henc, hdec, -⟩, -, hin, -⟩ := h.correct
  have hin := hin (by simp [hb])
  by_cases hop : cmdOp s.unit.cmd = 0#1
  · exact exists_unitTurn_of_encode hb hop h.alen hin (henc hb hop)
  · have hop := eq_one_of_ne_zero hop
    exact exists_unitTurn_of_decode hb hop h.alen (h.table hop) hin (hdec hb hop)

/-- In as many steps as it has left, and with any further step doing nothing, a command has ended with its unit
correct. -/
theorem unitTurns_of_runnable (n : Nat) {s : State} (hs : Runnable s) (hi : s.unit.state ≠ .idle)
    (hn : s.unit.state = .busy → stepsLeft s.unit ≤ n) :
    ∃ t, unitTurns n s = .next t ∧ (t.unit.state = .done ∨ t.unit.state = .fail) ∧ unitCorrect t t.unit ∧
      SameCommand s t := by
  induction n generalizing s with
  | zero =>
    obtain ⟨-, hseq, -⟩ := hs.correct
    have hb : s.unit.state ≠ .busy := fun hb => absurd (hn hb) (Nat.not_le.mpr (stepsLeft_pos hb hseq))
    refine ⟨s, rfl, ?_, hs.correct, .refl s⟩
    cases hst : s.unit.state with
    | idle => exact absurd hst hi
    | busy => exact absurd hst hb
    | done => exact .inl rfl
    | fail => exact .inr rfl
  | succ n ih =>
    by_cases hb : s.unit.state = .busy
    · obtain ⟨v, hv⟩ := hs.exists_unitTurn hb
      have hstep := unitTurn_eq_next hv
      obtain ⟨t, ht, hend, hcorrect, hsame⟩ := ih (hstep.runnable hb hs) (hstep.ne_idle_of_busy hb) fun hb' =>
        Nat.le_of_lt_succ (Nat.lt_of_lt_of_le (hstep.stepsLeft_lt hb hb') (hn hb))
      exact ⟨t, by rw [unitTurns, hv, chain_next, ht], hend, hcorrect, (hstep.sameCommand hb).trans hsame⟩
    · obtain ⟨t, ht, hend⟩ := ih hs hi fun hb' => absurd hb' hb
      exact ⟨t, by rw [unitTurns, unitTurn_of_idle hb hs.portFree, chain_next, ht], hend⟩

/-- A correct unit that has ended an ENCODE is in `DONE` with `enc` of its input. -/
theorem encode_result {t : State} (h : unitCorrect t t.unit) (hop : cmdOp t.unit.cmd = 0#1)
    (hend : t.unit.state = .done ∨ t.unit.state = .fail) :
    t.unit.state = .done ∧ t.unit.err = none ∧
      t.unit.outBuf = Memory.ofList (enc (alphabetFn t.params t.unit.asel) t.params.pad t.unit.inBuf.values) ∧
      t.unit.outLen = encodedLen t.unit.inLen := by
  obtain ⟨hstatus, ⟨-, -, -, hlen, -, hfail⟩, -, -, -, -, henc, -⟩ := h
  have hdone : t.unit.state = .done :=
    hend.resolve_right fun hf => absurd (hop.symm.trans (hfail hf)) (by decide)
  exact ⟨hdone, err_eq_none_of_statusOk hstatus (by simp [hdone]), (henc hop).2 hdone, hlen hdone hop⟩

/-- A presented buffer stands on the port whole. -/
theorem isBuffer_of_presents {u : UnitState} {word : BitVec 4} {input : List Byte} (h : presents u word input) :
    isBuffer u.portIn u.portInLen := by
  obtain ⟨-, -, -, hlen, hbuf⟩ := h
  rw [hlen, hbuf]
  exact isBuffer_ofList input

/-- Settles O32: the acceptance, then `NG + 1` steps; a unit that has ended an ENCODE correctly holds `enc`. -/
theorem encodeRunsToItsResult : Obligations.EncodeRunsToItsResult := by
  intro s a input hpresents hin hout halen
  rw [← cmdWord_encode] at hpresents
  have hport := isBuffer_of_presents hpresents
  obtain ⟨hb, hv, hword, hlen, hbuf⟩ := hpresents
  have haccept : unitTurn s = .next (s.withUnit (s.unit.acceptEncode (cmdWord 0#2 a 0#1))) := by
    rw [unitTurn_of_presented hb hv, hword, exec_decodeCmd_of_encode (cmdBase_cmdWord ..) (cmdOp_cmdWord ..)]
    exact encodeCommand_of_fits _ hb (hlen ▸ hin) (hlen ▸ hout)
  have hrun : Runnable (s.withUnit (s.unit.acceptEncode (cmdWord 0#2 a 0#1))) := by
    refine ⟨unitCorrect_acceptEncode _ hport (cmdBase_cmdWord ..) (cmdOp_cmdWord ..), rfl, ?_, fun hop => ?_⟩
    · simpa [UnitState.asel] using halen
    · simp at hop
  obtain ⟨t, ht, hend, hcorrect, hsame⟩ := unitTurns_of_runnable (input.length / 3 + 1) hrun (by simp)
    fun _ => by simp [stepsLeft, hlen]
  have hasel : t.unit.asel = a := by rw [UnitState.asel, hsame.cmd]; exact cmdAsel_cmdWord ..
  have hop : cmdOp t.unit.cmd = 0#1 := by rw [hsame.cmd]; exact cmdOp_cmdWord ..
  have hinput : t.unit.inBuf.values = input := by rw [hsame.input]; simp [hbuf]
  have hinLen : t.unit.inLen = input.length := hsame.inLen.trans hlen
  have hparams : t.params = s.params := hsame.params
  obtain ⟨hdone, herr, hresult, hlength⟩ := encode_result hcorrect hop hend
  rw [hasel, hinput, hparams] at hresult
  rw [hinLen] at hlength
  refine ⟨t, ?_, hdone, herr, hresult, hlength, ?_, hsame.tables.1, hsame.tables.2, hparams, hsame.others⟩
  · rw [Nat.add_comm, unitTurns, haccept, chain_next, ht]
  · exact readResult_of_outBuf_eq_ofList hdone hresult (hlength.trans (length_enc _ _ _).symm)

/-- A correct unit that has ended a DECODE holds the bytes of `dec` or its error. -/
theorem decode_result {t : State} (h : unitCorrect t t.unit) (hop : cmdOp t.unit.cmd = 1#1)
    (hend : t.unit.state = .done ∨ t.unit.state = .fail) :
    match dec (tableFn t.params t.unit.asel) t.params.trail t.unit.inBuf.values with
    | .ok bytes => t.unit.state = .done ∧ t.unit.err = none ∧ t.unit.outBuf = Memory.ofList bytes ∧
        t.unit.outLen = bytes.length ∧ readResult t.unit = some bytes
    | .error e => t.unit.state = .fail ∧ t.unit.err = some e ∧ readResult t.unit = none := by
  obtain ⟨hstatus, -, -, -, hlen, -, -, hdec⟩ := h
  obtain ⟨-, -, hdone, hfail⟩ := hdec hop
  obtain hd | hf := hend
  · obtain ⟨hbuf, hresult⟩ := hdone hd
    have hlen' : t.unit.outLen = t.unit.outBuf.values.length :=
      (length_values_of_isBuffer ⟨hbuf, hlen (.inr hd)⟩).symm
    rw [hresult]
    exact ⟨hd, err_eq_none_of_statusOk hstatus (by simp [hd]), hbuf, hlen',
      readResult_of_outBuf_eq_ofList hd hbuf hlen'⟩
  · obtain ⟨e, he⟩ := Option.ne_none_iff_exists'.mp (hstatus.mp hf)
    rw [hfail e hf he]
    exact ⟨hf, he, readResult_of_ne_done (by simp [hf])⟩

/-- Settles O44: the acceptance, then at most `1 + NG` steps; a unit that has ended a DECODE correctly holds what `dec`
gives. -/
theorem decodeRunsToItsResult : Obligations.DecodeRunsToItsResult := by
  intro s a input hpresents hin hout halen hl ht
  rw [← cmdWord_decode] at hpresents
  have hport := isBuffer_of_presents hpresents
  obtain ⟨hb, hv, hword, hlen, hbuf⟩ := hpresents
  have haccept : unitTurn s = .next (s.withUnit (s.unit.acceptDecode (cmdWord 0#2 a 1#1))) := by
    rw [unitTurn_of_presented hb hv, hword, exec_decodeCmd_of_decode (cmdBase_cmdWord ..) (cmdOp_cmdWord ..),
      cmdAsel_cmdWord]
    exact decodeCommand_of_fits _ hb hl halen (hlen ▸ hin) (hlen ▸ hout)
  have hrun : Runnable (s.withUnit (s.unit.acceptDecode (cmdWord 0#2 a 1#1))) := by
    refine ⟨unitCorrect_acceptDecode hport (cmdBase_cmdWord ..) (cmdOp_cmdWord ..) ?_, rfl, ?_, fun _ c => ?_⟩
    · simpa using hl
    · simpa [UnitState.asel] using halen
    · simpa [UnitState.asel] using ht c
  obtain ⟨t, hturns, hend, hcorrect, hsame⟩ := unitTurns_of_runnable (1 + input.length / 4) hrun (by simp)
    fun _ => by simp [stepsLeft, hlen, Nat.add_comm]
  have hasel : t.unit.asel = a := by rw [UnitState.asel, hsame.cmd]; exact cmdAsel_cmdWord ..
  have hop : cmdOp t.unit.cmd = 1#1 := by rw [hsame.cmd]; exact cmdOp_cmdWord ..
  have hinput : t.unit.inBuf.values = input := by rw [hsame.input]; simp [hbuf]
  have hparams : t.params = s.params := hsame.params
  have hresult := decode_result hcorrect hop hend
  rw [hasel, hinput, hparams] at hresult
  refine ⟨1 + (1 + input.length / 4), t, Nat.le_refl _, ?_, hresult⟩
  rw [Nat.add_comm, unitTurns, haccept, chain_next, hturns]

end Sys2Proof.Machine

namespace Sys2Proof.Machine

open Sys2Proof.Safety

/-! ## The default turn of a still machine (70_reset_and_hazards.md R144) -/

/-- A free unit with nothing on its port cannot move. -/
theorem canMove_of_idle {s : State} {u : UnitState} (hb : u.state ≠ .busy) (hv : u.cmdValid = false) :
    u.canMove s = false := by
  simp [UnitState.canMove, hb, hv]

/-- The default turn when no unit can move: the Table Builder's, or nothing. -/
theorem defaultTurn_of_still {s : State} (h : ∀ u ∈ unitsOf s, u.canMove s = false) :
    defaultTurn s =
      if s.lutValid0 = false then exec (.build .general) s
      else if s.lutValid1 = false then exec (.build .urlSafe) s
      else .next s := by
  obtain ⟨hfocus, hothers⟩ := List.forall_mem_cons.mp h
  have hany : s.others.any (fun u => u.canMove s) = false := by simpa using hothers
  simp [defaultTurn, hfocus, hany]

/-- A still machine builds a table that is not valid, or does nothing; in any case its units stay. -/
theorem defaultTurn_units_of_still {s t : State} (h : ∀ u ∈ unitsOf s, u.canMove s = false)
    (ht : defaultTurn s = .next t) : t.unit = s.unit ∧ t.others = s.others := by
  rw [defaultTurn_of_still h] at ht
  split at ht
  · obtain ⟨-, rfl⟩ := execBuild_eq_next.1 ht
    exact ⟨rfl, rfl⟩
  · split at ht
    · obtain ⟨-, rfl⟩ := execBuild_eq_next.1 ht
      exact ⟨rfl, rfl⟩
    · cases ht; exact ⟨rfl, rfl⟩

/-! ## Building both tables (70_reset_and_hazards.md R144) -/

/-- A machine with no event to come and no unit able to move, whose valid tables are built and whose alphabets can be
built: the hypotheses of the run after reset. -/
structure Still (s : State) : Prop where
  events : s.events = []
  units : ∀ u ∈ unitsOf s, u.state ≠ .busy ∧ u.cmdValid = false
  sizes : ∀ a, 1 ≤ alen s.params a ∧ alen s.params a ≤ 255
  built : tablesBuilt s

/-- What the Table Builder leaves of a still machine: the first table that is not valid is built. -/
def State.builderStep (s : State) : State :=
  if s.lutValid0 = false then s.withTable (buildTable (alphaOf s.params .general) s.params.pad) .general
  else if s.lutValid1 = false then s.withTable (buildTable (alphaOf s.params .urlSafe) s.params.pad) .urlSafe
  else s

/-- What the Table Builder leaves: a table built, or nothing to build. -/
theorem builderStep_cases (s : State) :
    (∃ a, s.lutValid a = false ∧ s.builderStep = s.withTable (buildTable (alphaOf s.params a) s.params.pad) a) ∨
    (s.lutValid0 = true ∧ s.lutValid1 = true ∧ s.builderStep = s) := by
  unfold State.builderStep
  split
  · next h0 => exact .inl ⟨.general, h0, rfl⟩
  · next h0 =>
    split
    · next h1 => exact .inl ⟨.urlSafe, h1, rfl⟩
    · next h1 => exact .inr ⟨by simpa using h0, by simpa using h1, rfl⟩

/-- After two of its steps both tables are valid. -/
theorem builderStep_builderStep_valid (s : State) :
    s.builderStep.builderStep.lutValid0 = true ∧ s.builderStep.builderStep.lutValid1 = true := by
  cases h0 : s.lutValid0 <;> cases h1 : s.lutValid1 <;> simp [State.builderStep, h0, h1]

theorem builderStep_units (s : State) : s.builderStep.unit = s.unit ∧ s.builderStep.others = s.others := by
  obtain ⟨a, -, h⟩ | ⟨-, -, h⟩ := builderStep_cases s
  · simp [h]
  · rw [h]; exact ⟨rfl, rfl⟩

/-- The step of a still machine is the Table Builder's. -/
theorem Still.step_eq {s : State} (h : Still s) : step s = .next s.builderStep := by
  have hbuild (a : Asel) : exec (.build a) s = .next (s.withTable (buildTable (alphaOf s.params a) s.params.pad) a) :=
    execBuild_eq_next.2 ⟨h.sizes a, rfl⟩
  rw [step_of_default (.inl h.events),
    defaultTurn_of_still fun u hu => canMove_of_idle (h.units u hu).1 (h.units u hu).2, hbuild, hbuild,
    State.builderStep]
  split
  · rfl
  · split <;> rfl

/-- The machine stays still. -/
theorem Still.builderStep {s : State} (h : Still s) : Still s.builderStep := by
  obtain ⟨a, hv, hs⟩ | ⟨-, -, hs⟩ := builderStep_cases s
  · obtain ⟨hp, hu, ho, he, -⟩ := withTable_kept s (buildTable (alphaOf s.params a) s.params.pad) a
    rw [hs]
    refine ⟨he.trans h.events, ?_, ?_, tablesBuilt_step (.build s.events a hv (h.sizes a)) h.built⟩
    · rw [unitsOf, hu, ho]; exact h.units
    · rw [hp]; exact h.sizes
  · rw [hs]; exact h

/-- A run goes on after a step that answers. -/
theorem core_run_succ {k : Nat} {s t : State} (h : step s = .next t) :
    Sys2Proof.core.run (k + 1) s = Sys2Proof.core.run k t := by
  simp only [Host.Core.run, show Sys2Proof.core.step s = .next t from h]

/-- Settles O55: a still machine builds table 0, then table 1, whichever is not valid yet. -/
theorem tablesAreBuiltAfterReset : Obligations.TablesAreBuiltAfterReset := by
  intro s he hunits hsizes hbuilt
  have hstill : Still s := ⟨he, hunits, hsizes, hbuilt⟩
  have hrun : Sys2Proof.core.run 2 s = .next s.builderStep.builderStep :=
    (core_run_succ hstill.step_eq).trans (core_run_succ hstill.builderStep.step_eq)
  obtain ⟨hv0, hv1⟩ := builderStep_builderStep_valid s
  obtain ⟨hu, ho⟩ := builderStep_units s
  obtain ⟨hu', ho'⟩ := builderStep_units s.builderStep
  exact ⟨_, hrun, hv0, hv1, hstill.builderStep.builderStep.built, hu'.trans hu, ho'.trans ho⟩

/-! ## The Table Builder and the change of focus (40_table_build.md R75, 60_exceptions.md R139) -/

section
variable {s : State}

/-- A builder whose table is valid has no further step (40_table_build.md R75). -/
theorem builderTurn_of_valid {a : Asel} (hv : s.lutValid a = true) : builderTurn a s = .next s := if_pos hv

theorem builderTurn_of_not_valid {a : Asel} (hv : s.lutValid a = false) : builderTurn a s = exec (.build a) s :=
  if_neg (by simp [hv])

/-- The Table Builder leaves the units alone. -/
theorem builderTurn_unit {a : Asel} {t : State} (h : builderTurn a s = .next t) : t.unit = s.unit := by
  cases hv : s.lutValid a with
  | true =>
    rw [builderTurn_of_valid hv] at h
    cases h
    rfl
  | false =>
    rw [builderTurn_of_not_valid hv] at h
    obtain ⟨-, rfl⟩ := execBuild_eq_next.1 h
    simp

/-- The first of the other units comes into focus. -/
theorem rotate_of_cons {v : UnitState} {vs : List UnitState} (ho : s.others = v :: vs) :
    s.rotate = { s with unit := v, others := vs ++ [s.unit] } := by
  rw [State.rotate, ho]

theorem rotate_of_nil (ho : s.others = []) : s.rotate = s := by
  rw [State.rotate, ho]

/-- The default turn changes the focus when the unit in focus cannot move and another can. -/
theorem defaultTurn_of_other (hm : s.unit.canMove s = false) (hany : ∃ u ∈ s.others, u.canMove s = true) :
    defaultTurn s = .next s.rotate := by
  simp [defaultTurn, hm, hany]

end

/-! ## A result stays until the next command (43_host_interface_and_variants.md R122) -/

/-- With nothing presented, a step that neither resets nor changes the focus leaves a unit in `DONE` alone, but for a
command presented to it. -/
theorem step_of_done {s t : State} (hd : s.unit.state = .done) (hv : s.unit.cmdValid = false) (h : step s = .next t)
    (hreset : ∀ es, s.events ≠ .reset :: es) (hfocus : ∀ es, s.events ≠ .nextUnit :: es)
    (hothers : s.events = [] → ∀ u ∈ s.others, u.state ≠ .busy ∧ u.cmdValid = false) :
    t.unit = s.unit ∨ ∃ w bs, t.unit = s.unit.present w bs := by
  have hidle : s.unit.state ≠ .busy := by simp [hd]
  cases he : s.events with
  | nil =>
    have hstill : ∀ u ∈ unitsOf s, u.canMove s = false := List.forall_mem_cons.mpr
      ⟨canMove_of_idle hidle hv, fun u hu => canMove_of_idle (hothers he u hu).1 (hothers he u hu).2⟩
    rw [step_of_default (.inl he)] at h
    exact .inl (defaultTurn_units_of_still hstill h).1
  | cons e es =>
    cases e with
    | builderTurn a =>
      rw [step_of_builderTurn he] at h
      exact .inl (builderTurn_unit (s := s.withEvents es) h)
    | unitTurn =>
      rw [step_of_unitTurn he, unitTurn_of_idle (s := s.withEvents es) hidle hv] at h
      cases h
      exact .inl rfl
    | nextUnit => exact absurd he (hfocus es)
    | present w bs =>
      rw [step_of_present he hv] at h
      cases h
      exact .inr ⟨w, bs, rfl⟩
    | reset => exact absurd he (hreset es)

/-- Settles O56: the unit stays as it is, or has a command put on its port. -/
theorem resultStaysUntilTheNextCommand : Obligations.ResultStaysUntilTheNextCommand := by
  intro s t hd hv h hreset hfocus hothers
  obtain hu | ⟨w, bs, hu⟩ := step_of_done hd hv h hreset hfocus hothers
  · rw [hu]; exact ⟨rfl, rfl, rfl, hd⟩
  · rw [hu]; exact ⟨rfl, rfl, rfl, hd⟩

/-! ## The host's and the Table Builder's moves (43_host_interface_and_variants.md R118, R119, R123) -/

/-- Settles O59: the moves by their events, and the change of focus of the default turn. -/
theorem hostAndBuilderMoves : Obligations.HostAndBuilderMoves := by
  intro s es
  refine ⟨fun w buffer he hv => step_of_present he hv, fun a he hv => ?_, fun a he hv => ?_,
    fun v vs he ho => ?_, fun he ho => ?_, fun v vs he ho hm hany => ?_⟩
  · rw [step_of_builderTurn he]
    exact builderTurn_of_valid ((lut_withEvents s es a).2.trans hv)
  · rw [step_of_builderTurn he]
    exact builderTurn_of_not_valid ((lut_withEvents s es a).2.trans hv)
  · rw [step_of_nextUnit he, rotate_of_cons (s := s.withEvents es) ho]
    rfl
  · rw [step_of_nextUnit he, rotate_of_nil (s := s.withEvents es) ho]
    rfl
  · rw [step_of_default (.inl he), defaultTurn_of_other hm hany, rotate_of_cons ho]

end Sys2Proof.Machine

namespace Sys2Proof.Machine

/-! ## The state after reset and this block's tables (10_state.md R16 to R20, R31, 40_table_build.md R74) -/

/-- Settles O12: the reset state's fields and this block's constants. -/
theorem resetValues : Obligations.ResetValues := by
  unfold Obligations.ResetValues
  decide +kernel

/-- The tables of this block as the spec lists them: the digits, the two runs of letters, the two characters in which
the alphabets differ, and `PAD`. -/
def listedEntry (a : Asel) (c : Nat) : Entry :=
  if 0x30 ≤ c ∧ c ≤ 0x39 then .value (BitVec.ofNat 8 (c - 0x30 + 52))
  else if 0x41 ≤ c ∧ c ≤ 0x5A then .value (BitVec.ofNat 8 (c - 0x41))
  else if 0x61 ≤ c ∧ c ≤ 0x7A then .value (BitVec.ofNat 8 (c - 0x61 + 26))
  else if c = (match a with | .general => 0x2B | .urlSafe => 0x2D) then .value 62#8
  else if c = (match a with | .general => 0x2F | .urlSafe => 0x5F) then .value 63#8
  else if c = 0x3D then .padding else .invalid

/-- `build` of this block's alphabets is what the spec lists, byte by byte. -/
theorem tableFn_blockParams (a : Asel) {c : Nat} (hc : c < 256) :
    tableFn blockParams a (BitVec.ofNat 8 c) = listedEntry a c := by
  cases a
  · revert c; decide +kernel
  · revert c; decide +kernel

/-- The cells of the built tables are those listed. -/
theorem read_buildTable_blockParams (a : Asel) {c : Nat} (hc : c < 256) :
    Memory.read (buildTable (alphaOf blockParams a) blockParams.pad) c = some (listedEntry a c) := by
  have hread := read_buildTable_toNat (alphaOf blockParams a) blockParams.pad (BitVec.ofNat 8 c)
  rw [BitVec.toNat_ofNat, Nat.mod_eq_of_lt hc] at hread
  rw [hread, ← tableFn_blockParams a hc]
  rfl

/-- The bytes that have an entry are those that have it in the list. -/
theorem filter_tableFn_blockParams (a : Asel) (e : Entry) :
    ((List.range 256).filter fun c => tableFn blockParams a (BitVec.ofNat 8 c) = e) =
      (List.range 256).filter fun c => listedEntry a c = e :=
  List.filter_congr fun c hc => by rw [tableFn_blockParams a (List.mem_range.mp hc)]

theorem listedEntry_invalid_count (a : Asel) :
    ((List.range 256).filter fun c => listedEntry a c = .invalid).length = 191 := by
  cases a <;> decide +kernel

theorem listedEntry_padding_count (a : Asel) :
    ((List.range 256).filter fun c => listedEntry a c = .padding).length = 1 := by
  cases a <;> decide +kernel

theorem listedEntry_value_count (a : Asel) :
    ∀ v, v < 64 → ((List.range 256).filter fun c => listedEntry a c = .value (BitVec.ofNat 8 v)).length = 1 := by
  cases a <;> decide +kernel

theorem listedEntry_differ :
    ((List.range 256).filter fun c => listedEntry .general c ≠ listedEntry .urlSafe c) = [0x2B, 0x2D, 0x2F, 0x5F] := by
  decide +kernel

/-- Settles O22: `build` against the list, then the counts and the differences of the list. -/
theorem blockTables : Obligations.BlockTables := by
  refine ⟨fun c hc => read_buildTable_blockParams .general hc, fun c hc => read_buildTable_blockParams .urlSafe hc,
    fun a => ⟨?_, ?_, fun v hv => ?_⟩, ?_⟩
  · rw [filter_tableFn_blockParams, listedEntry_invalid_count]
  · rw [filter_tableFn_blockParams, listedEntry_padding_count]
  · rw [filter_tableFn_blockParams, listedEntry_value_count a v hv]
  · rw [← listedEntry_differ]
    refine List.filter_congr fun c hc => ?_
    rw [tableFn_blockParams .general (List.mem_range.mp hc), tableFn_blockParams .urlSafe (List.mem_range.mp hc)]

end Sys2Proof.Machine
